-- ==== Sys2Proof/Word.lean ====
section
/-! DEFINITION. The word types of the block codec unit: bytes, command words, blocks and the tile buffer. -/

namespace Sys2Proof

/-- One byte of a buffer (spec R6, R7). -/
abbrev Byte := BitVec 8

/-- A command word as written to `CMD` (spec R70). -/
abbrev CmdWord := BitVec 32

/-- One 64-bit block, or one half of a 128-bit block, its bits numbered as R7 numbers block bits: bit `n` of
the vector is block bit `n` relative to the half, so byte `k` is bits `8k+7 .. 8k` (spec R2, R7). -/
abbrev Half := BitVec 64

/-- The block buffer `BLK[0..15]`: bit `n` is block bit `n` of R7, byte `k` is bits `8k+7 .. 8k` (spec R22, R7). -/
abbrev Block := BitVec 128

/-- The tile buffer `TILE[0..63]`, one entry a byte (spec R21). -/
abbrev TileBuf := Vector Byte 64

end Sys2Proof
end

