-- ==== Sys2Proof/Syntax.lean ====
section
/-! DEFINITION. The commands of the unit, one constructor per row of spec/opcode_table.json (R71, R332). -/

namespace Sys2Proof

/-- A command (spec R71). The only operand in a command word is `WIDTH`, an unsigned count (spec R73). -/
inductive Instr where
  | nop
  | clrblk
  | setbits (width : Nat)
  | getbits (width : Nat)
  | chksize (bits : Nat)
  | fixboEtc
  | bswap64
  | initBc7
  | encEtc1
  | encEtc2Rgb
  | encEtc2Rgba
  | encEtc2R11
  | encEtc2Rg11
  | encBc1
  | encBc3
  | encBc4
  | encBc5
  | encBc7
  | decBc1
  | decBc3
  | decBc4
  | decBc5
  | decBc7
  deriving DecidableEq, Repr

end Sys2Proof
end

