-- ==== Sys2Proof/WellFormed.lean ====
section
/-! DEFINITION. Which commands have an encoding: the operand of `SETBITS`, `GETBITS` and `CHKSIZE` is an 8-bit
field (R70, R73). Whether a width is legal for the command is not an encoding matter: it is the command's own
test, and its violation is a fault of the unit (R91, R92). -/

namespace Sys2Proof

/-- `WIDTH` fits its field `bits[15:8]` (spec R70, R73). -/
def widthFits (width : Nat) : Bool := width < 256

/-- The command can be written in a command word (spec R70, R71). -/
def Instr.wellFormed : Instr → Bool
  | .nop => true
  | .clrblk => true
  | .setbits width => widthFits width
  | .getbits width => widthFits width
  | .chksize bits => widthFits bits
  | .fixboEtc => true
  | .bswap64 => true
  | .initBc7 => true
  | .encEtc1 => true
  | .encEtc2Rgb => true
  | .encEtc2Rgba => true
  | .encEtc2R11 => true
  | .encEtc2Rg11 => true
  | .encBc1 => true
  | .encBc3 => true
  | .encBc4 => true
  | .encBc5 => true
  | .encBc7 => true
  | .decBc1 => true
  | .decBc3 => true
  | .decBc4 => true
  | .decBc5 => true
  | .decBc7 => true

end Sys2Proof
end

