-- ==== Sys2Proof/Decode.lean ====
section
/-! DEFINITION. The opcode map of R71 as data, the decoder (total, refusing by name) and the encoder. -/

namespace Sys2Proof

/-- Why a word is no command (spec R74, R75). Every case is the one fault `ILLEGAL_CMD` (spec R341, R342). -/
inductive DecodeReject where
  /-- `OPC` is not in the opcode map (spec R75). -/
  | reservedOpc
  /-- `ZERO` is not 0 (spec R74). -/
  | zeroField
  /-- `WIDTH` is not 0 in a command without operand (spec R74). -/
  | widthField
  deriving DecidableEq, Repr

/-- A row of the opcode map: `match`, `mask`, and the command a matching word stands for, given its `WIDTH`. -/
structure OpRow where
  pattern : CmdWord
  mask : CmdWord
  build : Nat → Instr

/-- `OPC = bits[7:0]` (spec R70). -/
def cmdOpc (w : CmdWord) : BitVec 8 := w.extractLsb' 0 8

/-- `WIDTH = bits[15:8]`, an unsigned count (spec R70, R73). -/
def cmdWidth (w : CmdWord) : Nat := (w.extractLsb' 8 8).toNat

/-- `ZERO = bits[31:16]` (spec R70). -/
def cmdZero (w : CmdWord) : BitVec 16 := w.extractLsb' 16 16

/-- A row whose word is fixed whole (spec R71). -/
def fixedRow (pattern : CmdWord) (i : Instr) : OpRow := ⟨pattern, 0xFFFFFFFF#32, fun _ => i⟩

/-- A row with the operand `WIDTH` (spec R71). -/
def widthRow (pattern : CmdWord) (build : Nat → Instr) : OpRow := ⟨pattern, 0xFFFF00FF#32, build⟩

/-- The complete opcode map (spec R71). -/
def opcodeMap : List OpRow :=
  [ fixedRow 0x00#32 .nop, fixedRow 0x01#32 .clrblk, widthRow 0x02#32 .setbits, widthRow 0x03#32 .getbits,
    widthRow 0x04#32 .chksize, fixedRow 0x05#32 .fixboEtc, fixedRow 0x06#32 .bswap64,
    fixedRow 0x08#32 .initBc7,
    fixedRow 0x10#32 .encEtc1, fixedRow 0x11#32 .encEtc2Rgb, fixedRow 0x12#32 .encEtc2Rgba,
    fixedRow 0x13#32 .encEtc2R11, fixedRow 0x14#32 .encEtc2Rg11,
    fixedRow 0x15#32 .encBc1, fixedRow 0x16#32 .encBc3, fixedRow 0x17#32 .encBc4, fixedRow 0x18#32 .encBc5,
    fixedRow 0x19#32 .encBc7,
    fixedRow 0x25#32 .decBc1, fixedRow 0x26#32 .decBc3, fixedRow 0x27#32 .decBc4, fixedRow 0x28#32 .decBc5,
    fixedRow 0x29#32 .decBc7 ]

/-- A word selects a row when it equals `match` under `mask` (spec R71). -/
def rowMatches (w : CmdWord) (row : OpRow) : Bool := w &&& row.mask == row.pattern

/-- Why a word that matches no row is none (spec R74, R75). -/
def rejectReason (w : CmdWord) : DecodeReject :=
  if opcodeMap.all (fun row => row.pattern != (cmdOpc w).setWidth 32) then .reservedOpc
  else if cmdZero w != 0#16 then .zeroField
  else .widthField

/-- The decoder: every word is a command or is rejected by name (spec R71, R74, R75). -/
def decode (w : CmdWord) : Except DecodeReject Instr :=
  match opcodeMap.find? (rowMatches w) with
  | some row => .ok (row.build (cmdWidth w))
  | none => .error (rejectReason w)

/-- A command word from its fields (spec R70, R76). -/
def cmdWord (opc width : Nat) : CmdWord := BitVec.ofNat 32 (opc + width * 256)

/-- The encoder: the word of a command (spec R71, R76). Meant for well-formed commands. -/
def encode : Instr → CmdWord
  | .nop => cmdWord 0x00 0
  | .clrblk => cmdWord 0x01 0
  | .setbits width => cmdWord 0x02 width
  | .getbits width => cmdWord 0x03 width
  | .chksize bits => cmdWord 0x04 bits
  | .fixboEtc => cmdWord 0x05 0
  | .bswap64 => cmdWord 0x06 0
  | .initBc7 => cmdWord 0x08 0
  | .encEtc1 => cmdWord 0x10 0
  | .encEtc2Rgb => cmdWord 0x11 0
  | .encEtc2Rgba => cmdWord 0x12 0
  | .encEtc2R11 => cmdWord 0x13 0
  | .encEtc2Rg11 => cmdWord 0x14 0
  | .encBc1 => cmdWord 0x15 0
  | .encBc3 => cmdWord 0x16 0
  | .encBc4 => cmdWord 0x17 0
  | .encBc5 => cmdWord 0x18 0
  | .encBc7 => cmdWord 0x19 0
  | .decBc1 => cmdWord 0x25 0
  | .decBc3 => cmdWord 0x26 0
  | .decBc4 => cmdWord 0x27 0
  | .decBc5 => cmdWord 0x28 0
  | .decBc7 => cmdWord 0x29 0

/-- The instruction the decoder reads from an instruction whose low `nbits` bits are `w` and whose other bits
are 0. A command is one 32-bit word (spec R70), so nothing else is laid out. -/
def decodeTableWord (nbits w : Nat) : Option Instr :=
  match decode (BitVec.ofNat 32 (w % 2 ^ nbits)) with
  | .ok i => some i
  | .error _ => none

end Sys2Proof
end

