-- ==== Sys2Proof/Config.lean ====
section
/-! DEFINITION. What an implementation fixes: the OPEN parameters of R5, the data types its functions are stated
over, and the free functions of the abstract encoder instance (R13, R220, R292). The constant tables, which R32
also counts as configuration, stand in Machine/Tables.lean. -/

namespace Sys2Proof

/-- The ten block formats (spec R2, R72). -/
inductive Fmt where
  | etc1 | etc2Rgb | etc2Rgba | etc2R11 | etc2Rg11 | bc1 | bc3 | bc4 | bc5 | bc7
  deriving DecidableEq, Repr

/-- A pixel, each channel `0..255` (spec R11). -/
structure Px where
  r : Nat
  g : Nat
  b : Nat
  a : Nat
  deriving DecidableEq, Repr, Inhabited

/-- The channel values of a colour in the order R, G, B or R, G, B, A (spec R11). -/
abbrev Colour := List Nat

/-- An entry `(err, lo, hi)` of `OPT1` or `OPT7` (spec R31). -/
structure OptEntry where
  err : Nat
  lo : Nat
  hi : Nat
  deriving DecidableEq, Repr, Inhabited

/-- `OPT1[c][p]` is entry `2c + p` (spec R31). -/
abbrev Opt1 := Vector OptEntry 512

/-- `OPT7[c][hp][lp]` is entry `4c + 2hp + lp` (spec R31). -/
abbrev Opt7 := Vector OptEntry 1024

/-- The field widths of one BC7 mode, a row of `BC7MODE` (spec R114). -/
structure Bc7ModeRow where
  /-- `NS`: subsets. -/
  ns : Nat
  /-- `PB`: partition-index bits. -/
  pb : Nat
  /-- `RB`: rotation bits. -/
  rb : Nat
  /-- `ISB`: index-selection bits. -/
  isb : Nat
  /-- `CB`: bits of a colour component. -/
  cb : Nat
  /-- `AB`: bits of the alpha component, 0 for none. -/
  ab : Nat
  /-- `EPB`: 1 if each endpoint has a p-bit. -/
  epb : Nat
  /-- `SPB`: 1 if each subset has one p-bit. -/
  spb : Nat
  /-- `IB`: bits of a primary selector. -/
  ib : Nat
  /-- `IB2`: bits of a secondary selector, 0 for none. -/
  ib2 : Nat
  deriving DecidableEq, Repr

/-- What a BC7 search chooses (spec R292): the mode, the partition, the endpoint fields `q[e]` as R, G, B, A,
the p-bits in order, the primary selectors and, for mode 5, the secondary ones. -/
structure Choice where
  mode : Nat
  part : Nat
  q : List Colour
  pb : List Nat
  sel1 : List Nat
  sel2 : List Nat
  deriving DecidableEq, Repr, Inhabited

/-- The arguments of `BC7_SEARCH` (spec R292). -/
structure SearchArgs where
  pixels : List Px
  opt1 : Opt1
  opt7 : Opt7
  prune : Bool
  effort : Nat
  maxPart : Nat
  w1 : Nat
  w5 : Nat
  w6 : Nat
  w7 : Nat
  deriving DecidableEq, Repr

/-- The parameter `ENCODER_INSTANCE` (spec R5, R13). -/
inductive EncoderKind where
  | reference
  | abstract
  deriving DecidableEq, Repr

/-- The parameter `BC7_SEARCH` (spec R5, R292): the reference search, or an uninterpreted one. -/
inductive SearchKind where
  | reference
  | uninterpreted
  deriving DecidableEq, Repr

/-- The parameter `BC1_IDX3_ALPHA` (spec R5, R141): 255, or the other legal value 0. -/
inductive Idx3Alpha where
  | opaqueBlack
  | transparentBlack
  deriving DecidableEq, Repr

/-- The OPEN parameters of R5 as one record; `LANES` is the number of lanes the state holds. `windowPage` is
`WINDOW_BASE / 256`, so that `WINDOW_BASE` is aligned to 256 by construction (spec R5, R50). -/
structure Params where
  windowPage : Nat
  idx3 : Idx3Alpha
  encoder : EncoderKind
  search : SearchKind
  deriving DecidableEq, Repr

/-- The identification constant (spec R5, R29). -/
def Config.idValue : BitVec 32 := 0x42435531#32

/-- `LANES` of the machine after reset: R5's default. DESIGN CHOICE (log 4): the parameter is OPEN, and a state
may hold any number of lanes. -/
def Config.defaultLanes : Nat := 1

/-- The parameters after reset: R5's defaults; the window page has no default in R5. DESIGN CHOICE (log 5). -/
def Config.defaultParams : Params :=
  { windowPage := 0, idx3 := .opaqueBlack, encoder := .reference, search := .reference }

/-- FREE (log 10): the block an abstract `ENC.ETC1` would emit for the R, G, B of a tile (spec R220, R224). -/
opaque Config.freeEtc1 : List Colour → Half

/-- FREE (log 10): the colour block an abstract ETC2 encoder of the format would emit for the R, G, B of a tile
and the option `ETC2_TH` (spec R220, R231). -/
opaque Config.freeEtc2Rgb : Fmt → List Colour → Bool → Half

/-- FREE (log 10): the EAC block an abstract encoder of the format would emit for sixteen values (spec R220, R238). -/
opaque Config.freeEac : Fmt → List Nat → Half

/-- FREE (log 10): the colour block an abstract BC1 or BC3 encoder would emit for the R, G, B of a tile and the
option `DITHER` (spec R220, R261). -/
opaque Config.freeBc1 : Fmt → List Colour → Bool → Half

/-- FREE (log 10): the BC4 block an abstract encoder of the format would emit for sixteen values (spec R220, R266). -/
opaque Config.freeBc4 : Fmt → List Nat → Half

/-- FREE (log 10): the choice an abstract `BC7_SEARCH` would make (spec R292). -/
opaque Config.freeBc7Search : SearchArgs → Choice

end Sys2Proof
end

