-- ==== Sys2Proof/Machine/State.lean ====
section
/-! DEFINITION. The state of the unit (R20): per-lane registers, the shared BC7 context, the OPEN parameters of R5,
and the model's own fields for the host's side of the bus. Plain data throughout. -/

namespace Sys2Proof.Machine

/-- Why the machine stops with a fault. The unit's own faults (R341) are NOT here: raising one is a next state
(R344, log 12). -/
inductive Fault where
  /-- Raised by an access whose address lies in no lane's window, and by a command executed while the model's field
  `cur` names no lane: the spec gives the unit no such address (R38, R50). Safe: the model stops (log 6). -/
  | outsideWindows
  deriving DecidableEq, Repr

/-- Why an instruction has no meaning. -/
inductive Refusal where
  /-- Raised by an arm of `exec` for a command that is not modelled, under its mnemonic. Safe: nothing is claimed
  of such a step. No arm raises it: every command of R71 has its meaning. -/
  | notModelled (mnemonic : String)
  deriving DecidableEq, Repr

/-- One lane: the per-lane state of R20. -/
structure Lane where
  /-- `TILE[0..63]` (R21). -/
  tile : TileBuf
  /-- `BLK[0..15]` (R22), bit `n` being block bit `n` (R7). -/
  blk : Block
  /-- `ARG` (R23). -/
  arg : BitVec 64
  /-- `RES` (R24). -/
  res : BitVec 64
  /-- `BITPOS` (R25). -/
  bitpos : BitVec 8
  /-- `CTRL` (R26). -/
  ctrl : BitVec 32
  /-- `W1` (R28). -/
  w1 : BitVec 16
  /-- `W5` (R28). -/
  w5 : BitVec 16
  /-- `W6` (R28). -/
  w6 : BitVec 16
  /-- `W7` (R28). -/
  w7 : BitVec 16
  /-- `STATUS.FAULT` (R27): the lane is halted. -/
  fault : Bool
  /-- `STATUS.CAUSE` (R27, R341). -/
  cause : BitVec 4
  deriving DecidableEq, Repr

/-- An input of the machine: a host access of the window at a bus address (R12, R52), or the reset input (R370).
The unit sees nothing else of the outside (R14). -/
inductive Txn where
  /-- `MemRead` of `size` bytes. -/
  | read (addr size : Nat)
  /-- `MemWrite` of `size` bytes; bits of `value` above them are not driven. -/
  | write (addr size : Nat) (value : BitVec 64)
  /-- The device-wide reset input is asserted. -/
  | reset
  deriving DecidableEq, Repr

/-- What the bus answered to the last access served (log 3). -/
inductive Response where
  /-- No access has been served yet. -/
  | none
  /-- A write, or a reset, was taken. -/
  | ack
  /-- A read returned this value, zero-extended (R52, R57). -/
  | data (value : BitVec 64)
  /-- The access was refused with an error response (R54, R347). -/
  | error
  deriving DecidableEq, Repr

/-- The machine. -/
structure State where
  /-- The lanes, lane `k` at index `k`; `LANES` is their number (R38). -/
  lanes : List Lane
  /-- `STATUS.BC7_READY`, shared (R27, R38). -/
  bc7Ready : Bool
  /-- `OPT1`, shared (R31). -/
  opt1 : Opt1
  /-- `OPT7`, shared (R31). -/
  opt7 : Opt7
  /-- The OPEN parameters of R5; no step changes them (log 5, 9, 10). -/
  params : Params
  /-- The model's own: the lane whose window was last accessed, on which a command executes (log 4). -/
  cur : Nat
  /-- The model's own: the inputs not yet served, oldest first (log 1). -/
  pending : List Txn
  /-- The model's own: the answer to the last access served (log 3). -/
  response : Response
  deriving DecidableEq, Repr

/-- A lane right after reset (R37, R370). -/
def Lane.reset : Lane :=
  { tile := Vector.replicate 64 0#8, blk := 0#128, arg := 0#64, res := 0#64, bitpos := 0#8,
    ctrl := 0x00001002#32, w1 := 1#16, w5 := 1#16, w6 := 1#16, w7 := 1#16, fault := false, cause := 0#4 }

/-- The entry every place of `OPT1` and `OPT7` holds at reset. DESIGN CHOICE (log 7): the spec leaves the contents
unspecified (R37) and no rule reads them before `INIT.BC7` (R31, R299). -/
def optEntryAtReset : OptEntry := ⟨0, 0, 0⟩

/-- The device right after reset with the given number of lanes and parameters (R37, R370), no input waiting. -/
def State.resetWith (lanes : Nat) (params : Params) : State :=
  { lanes := List.replicate lanes Lane.reset, bc7Ready := false,
    opt1 := Vector.replicate 512 optEntryAtReset, opt7 := Vector.replicate 1024 optEntryAtReset,
    params := params, cur := 0, pending := [], response := .none }

/-- The device right after reset at R5's default parameters (R37, R370). -/
def State.reset : State := State.resetWith Config.defaultLanes Config.defaultParams

end Sys2Proof.Machine
end

