-- ==== Sys2Proof/Machine/Flags.lean ====
section
/-! DEFINITION. The status bits and the option fields: `STATUS` as a word (R27), the cause codes (R341), and `CTRL`'s
fields with their legalisation (R26). The unit has no arithmetic flags (R35). -/

namespace Sys2Proof.Machine

/-- The causes of a fault (spec R341). -/
inductive Cause where
  | bc7Uninit
  | sizeMismatch
  | illegalCmd
  | bitfieldRange
  deriving DecidableEq, Repr

/-- The code `STATUS.CAUSE` holds (spec R341). -/
def causeCode : Cause → BitVec 4
  | .bc7Uninit => 1#4
  | .sizeMismatch => 2#4
  | .illegalCmd => 3#4
  | .bitfieldRange => 4#4

/-- `STATUS` as the host reads it: `BC7_READY` 0, `FAULT` 1, `BUSY` 2 and bit 3 always 0, `CAUSE` 7..4 (spec R27). -/
def statusWord (ready : Bool) (lane : Lane) : BitVec 32 :=
  BitVec.ofNat 32 (ready.toNat + 2 * lane.fault.toNat + 16 * lane.cause.toNat)

/-- `CTRL.DITHER` (spec R26). -/
def ctrlDither (c : BitVec 32) : Bool := c.getLsbD 0

/-- `CTRL.ETC2_TH` (spec R26). -/
def ctrlEtc2Th (c : BitVec 32) : Bool := c.getLsbD 1

/-- `CTRL.BC7_PRUNE` (spec R26). -/
def ctrlPrune (c : BitVec 32) : Bool := c.getLsbD 2

/-- `CTRL.BC7_EFFORT` (spec R26). -/
def ctrlEffort (c : BitVec 32) : Nat := (c.extractLsb' 3 3).toNat

/-- `CTRL.BC7_MAXPART` (spec R26). -/
def ctrlMaxPart (c : BitVec 32) : Nat := (c.extractLsb' 6 7).toNat

/-- A write of `BC7_EFFORT` of 5, 6 or 7 stores 4 (spec R26). -/
def legalEffort (e : Nat) : Nat := if e > 4 then 4 else e

/-- A write of `BC7_MAXPART` of 0 or of 65..127 stores 64 (spec R26). -/
def legalMaxPart (m : Nat) : Nat := if m = 0 ∨ m > 64 then 64 else m

/-- `CTRL` from its fields; bits 31..13 are 0 (spec R26). -/
def ctrlWord (dither th prune : Bool) (effort maxPart : Nat) : BitVec 32 :=
  BitVec.ofNat 32 (dither.toNat + 2 * th.toNat + 4 * prune.toNat + 8 * effort + 64 * maxPart)

/-- What a host write of `CTRL` stores: each field written any, stored legal (spec R26, R55). -/
def legalCtrl (v : BitVec 32) : BitVec 32 :=
  ctrlWord (ctrlDither v) (ctrlEtc2Th v) (ctrlPrune v) (legalEffort (ctrlEffort v)) (legalMaxPart (ctrlMaxPart v))

/-- What a host write of `BITPOS` stores: a value above 128 stores 128 (spec R25). -/
def legalBitpos (v : BitVec 32) : BitVec 8 := if v.toNat > 128 then 128#8 else v.setWidth 8

/-- The optional output pin `FAULT[lane]` mirrors `STATUS.FAULT`; nothing reads it (spec R348, log 14). -/
def faultPin (s : State) (lane : Nat) : Bool := (s.lanes[lane]?.map Lane.fault).getD false

end Sys2Proof.Machine
end

