-- ==== Sys2Proof/Machine/Arith.lean ====
section
/-! DEFINITION. The arithmetic of R6, R10 and R150 on unbounded integers, and the one search scheme of the spec,
"least x in S minimising f(x)" (R10). -/

namespace Sys2Proof.Machine

/-- `clamp(v, lo, hi)` (spec R10). -/
def clamp (v lo hi : Int) : Int := if v < lo then lo else if v > hi then hi else v

/-- `clamp255(v)`, a channel value (spec R10). -/
def clamp255 (v : Int) : Nat := (clamp v 0 255).toNat

/-- `tdiv(a, b)`: the quotient rounded toward zero (spec R6). -/
def tdiv (a b : Int) : Int := Int.tdiv a b

/-- `expand_n(q)`: an `n`-bit value widened to 8 bits by bit replication, `4 ≤ n ≤ 8` (spec R10). -/
def expand (n q : Nat) : Nat := if n = 8 then q else q * 2 ^ (8 - n) + q / 2 ^ (2 * n - 8)

/-- `|a - b|` of two naturals (spec R6). -/
def absDiff (a b : Nat) : Nat := (a - b) + (b - a)

/-- `(a - b)^2` of two naturals (spec R6). -/
def sqDiff (a b : Nat) : Nat := absDiff a b * absDiff a b

/-- The loop of `leastBy`: `best` is the first minimum so far and `score` its value. -/
def leastByLoop {α : Type} (f : α → Nat) (best : α) (score : Nat) : List α → α
  | [] => best
  | x :: xs => if f x < score then leastByLoop f x (f x) xs else leastByLoop f best score xs

/-- `least x in S minimising f(x)`: the first element of the ordered set at which `f` takes its minimum; `dflt`
for the empty set, which no rule searches (spec R10). -/
def leastBy {α : Type} (f : α → Nat) (dflt : α) : List α → α
  | [] => dflt
  | x :: xs => leastByLoop f x (f x) xs

/-- `least q in 0..n-1 minimising f(q)` (spec R10). -/
def leastBelow (n : Nat) (f : Nat → Nat) : Nat := leastBy f 0 (List.range n)

/-- The pairs `(lo, hi)` below `n`, `lo` in the outer loop (spec R121, R122). -/
def pairsBelow (n : Nat) : List (Nat × Nat) :=
  (List.range n).flatMap fun lo => (List.range n).map fun hi => (lo, hi)

/-- `quant_n(c)`: the least `n`-bit field whose expansion is nearest to `c` (spec R10). -/
def quant (n c : Nat) : Nat := leastBelow (2 ^ n) fun q => absDiff (expand n q) c

/-- `interp(lo, hi, w)`, BC7's weighted rounding (spec R150). -/
def interp (lo hi w : Nat) : Nat := (lo * (64 - w) + hi * w + 32) / 64

/-- Channel `ch` of a colour, 0 for R, 1 for G, 2 for B, 3 for A (spec R11). -/
def chan (c : Colour) (ch : Nat) : Nat := c.getD ch 0

/-- A colour with an alpha value as a pixel (spec R11). -/
def pxOf (c : Colour) (a : Nat) : Px := ⟨chan c 0, chan c 1, chan c 2, a⟩

/-- `rgb(p)` (spec R11). -/
def rgbOf (p : Px) : Colour := [p.r, p.g, p.b]

/-- The sum of squared differences of two colours over the channels both have (spec R227, R233, R264, R303). -/
def sqErr (c d : Colour) : Nat := (List.zipWith sqDiff c d).sum

/-- The field `v[hi:lo]` as `(v >> lo) mod 2^width`, given by its low bit and its width (spec R8, R9). -/
def field (v lo width : Nat) : Nat := v / 2 ^ lo % 2 ^ width

/-- `sext_3(v)` of a 3-bit field (spec R9). -/
def sext3 (v : Nat) : Int := if v < 4 then v else (v : Int) - 8

end Sys2Proof.Machine
end

