-- ==== Sys2Proof/Machine/Bits.lean ====
section
/-! DEFINITION. Bits, fields and bytes of blocks: the LSB-first numbering of R7, the big-endian word of R8, and the
sequence of fields that `SETBITS` lays down (R90, R147, R298). -/

namespace Sys2Proof.Machine

/-- `B{o +: w}`, the field of `w` bits at bit offset `o` (spec R7). -/
def getField {n : Nat} (x : BitVec n) (o w : Nat) : Nat := x.toNat / 2 ^ o % 2 ^ w

/-- The bits `o .. o+w-1` replaced by the low `w` bits of `v`, every other bit kept (spec R90, R91). -/
def setField {n : Nat} (x : BitVec n) (o w : Nat) (v : Nat) : BitVec n :=
  BitVec.ofNat n (x.toNat % 2 ^ o + 2 ^ o * (v % 2 ^ w) + 2 ^ (o + w) * (x.toNat / 2 ^ (o + w)))

/-- Byte `k` of a little-endian number (spec R7, R52). -/
def byteOf {n : Nat} (x : BitVec n) (k : Nat) : Byte := x.extractLsb' (8 * k) 8

/-- The number whose bytes are listed, lowest first (spec R52). -/
def bytesToNat : List Byte → Nat
  | [] => 0
  | b :: bs => b.toNat + 256 * bytesToNat bs

/-- The half whose byte `k` is byte `perm k` of `x`. -/
def permuteBytes (perm : Nat → Nat) (x : Half) : Half :=
  (byteOf x (perm 0)).setWidth 64 ||| (byteOf x (perm 1)).setWidth 64 <<< 8
    ||| (byteOf x (perm 2)).setWidth 64 <<< 16 ||| (byteOf x (perm 3)).setWidth 64 <<< 24
    ||| (byteOf x (perm 4)).setWidth 64 <<< 32 ||| (byteOf x (perm 5)).setWidth 64 <<< 40
    ||| (byteOf x (perm 6)).setWidth 64 <<< 48 ||| (byteOf x (perm 7)).setWidth 64 <<< 56

/-- Bytes 0 to 7 in the opposite order (spec R8, R96). -/
def byteReverse (x : Half) : Half := permuteBytes (fun k => 7 - k) x

/-- The big-endian 64-bit word `W` of a half (spec R8). -/
def wordOf (h : Half) : Nat := (byteReverse h).toNat

/-- The half whose big-endian word is `W` (spec R8, R229). -/
def halfOfWord (w : Nat) : Half := byteReverse (BitVec.ofNat 64 w)

/-- `BLK[0..7]` (spec R22). -/
def lowHalf (b : Block) : Half := b.extractLsb' 0 64

/-- `BLK[8..15]` (spec R22). -/
def highHalf (b : Block) : Half := b.extractLsb' 64 64

/-- The block with the given `BLK[0..7]` and `BLK[8..15]` (spec R22). -/
def blockOf (low high : Half) : Block := low.setWidth 128 ||| high.setWidth 128 <<< 64

/-- Fields `(value, width)` laid one after another from block bit 0 upward (spec R90, R147, R298). -/
def packFields : List (Nat × Nat) → Nat
  | [] => 0
  | (v, w) :: rest => v % 2 ^ w + 2 ^ w * packFields rest

/-- The values of consecutive fields of the given widths, from bit 0 upward (spec R147). -/
def splitFields : List Nat → Nat → List Nat
  | [], _ => []
  | w :: ws, x => x % 2 ^ w :: splitFields ws (x / 2 ^ w)

end Sys2Proof.Machine
end

