-- ==== Sys2Proof/Machine/Operands.lean ====
section
/-! DEFINITION. The operands a command reads, all fixed registers (R71, R73): the pixels of `TILE` by channel (R11,
R21), the halves of `BLK` (R22), and the pieces a command writes back. -/

namespace Sys2Proof.Machine

/-- Byte `k` of the tile buffer as a channel value (spec R21). -/
def tileByte (t : TileBuf) (k : Nat) : Nat := (t.toList.getD k 0#8).toNat

/-- Pixel `i` of the tile buffer (spec R11, R21). -/
def tilePx (t : TileBuf) (i : Nat) : Px :=
  ⟨tileByte t (4 * i), tileByte t (4 * i + 1), tileByte t (4 * i + 2), tileByte t (4 * i + 3)⟩

/-- The sixteen pixels of the tile, row-major (spec R11). -/
def tilePixels (t : TileBuf) : List Px := (List.range 16).map (tilePx t)

/-- Channel `ch` of a pixel, 0 for R, 1 for G, 2 for B, 3 for A (spec R11). -/
def pxChan (p : Px) : Nat → Nat
  | 0 => p.r
  | 1 => p.g
  | 2 => p.b
  | _ => p.a

/-- The tile buffer that holds the given sixteen pixels (spec R200). -/
def tileOfPixels (px : List Px) : TileBuf :=
  Vector.ofFn fun k => BitVec.ofNat 8 (pxChan (px.getD (k.val / 4) default) (k.val % 4))

/-- All four channels of a pixel. -/
def rgbaOf (p : Px) : Colour := [p.r, p.g, p.b, p.a]

/-- The R, G, B of the sixteen pixels: what ETC1, ETC2_RGB, BC1 and the colour halves use (spec R11, R21). -/
def tileRgb (t : TileBuf) : List Colour := (tilePixels t).map rgbOf

/-- The sixteen R values (spec R11). -/
def tileR (t : TileBuf) : List Nat := (tilePixels t).map Px.r

/-- The sixteen G values (spec R11). -/
def tileG (t : TileBuf) : List Nat := (tilePixels t).map Px.g

/-- The sixteen A values (spec R11). -/
def tileA (t : TileBuf) : List Nat := (tilePixels t).map Px.a

/-- A lane after an encode of a 64-bit format: `BLK[0..7]` written, `BLK[8..15]` kept, `BITPOS` 64
(spec R22, R78, R220). -/
def laneWithHalf (l : Lane) (h : Half) : Lane := { l with blk := blockOf h (highHalf l.blk), bitpos := 64#8 }

/-- A lane after an encode of a 128-bit format: all of `BLK` written, `BITPOS` 128 (spec R78, R220). -/
def laneWithBlock (l : Lane) (b : Block) : Lane := { l with blk := b, bitpos := 128#8 }

/-- A lane after a decode: all of `TILE` written, `BITPOS` the number of block bits consumed (spec R200). -/
def laneWithTile (l : Lane) (px : List Px) (bits : BitVec 8) : Lane :=
  { l with tile := tileOfPixels px, bitpos := bits }

end Sys2Proof.Machine
end

