-- ==== Sys2Proof/Machine/Ops.lean ====
section
/-! DEFINITION. The shared operations: reading and writing a lane, raising a fault (R344), the frame every command
runs in (R330), the register window (R50 to R57), and reset (R370), the one way out of a fault (R345). -/

namespace Sys2Proof.Machine

/-- The lane a command executes on (spec R330). -/
def curLane (s : State) : Option Lane := s.lanes[s.cur]?

/-- The state with that lane replaced; every other lane and the shared state are kept (spec R38). -/
def putLane (s : State) (l : Lane) : State := { s with lanes := s.lanes.set s.cur l }

/-- A lane after `raise Fault(cause)`: `CAUSE` and `FAULT` written, nothing else (spec R344). -/
def laneFaulted (l : Lane) (cause : Cause) : Lane := { l with fault := true, cause := causeCode cause }

/-- `raise Fault(cause)` on the executing lane `l`: taking the unit's one exception (spec R344). -/
def raiseFault (s : State) (l : Lane) (cause : Cause) : State := putLane s (laneFaulted l cause)

/-- The frame of every command (spec R330): a faulted lane ignores it; otherwise `body` gives the next state from
the lane's registers. -/
def runCommand (s : State) (body : Lane → State) : Host.Outcome State Fault Refusal :=
  match curLane s with
  | none => .fault .outsideWindows
  | some l => if l.fault then .next s else .next (body l)

/-- A command word that is no command: ignored on a faulted lane, else the fault `ILLEGAL_CMD`
(spec R74, R75, R330, R342). -/
def illegalCommand (s : State) : Host.Outcome State Fault Refusal :=
  runCommand s fun l => raiseFault s l .illegalCmd

/-- The device-wide reset, on every lane at once (spec R370): the number of lanes and the parameters are the
device's, everything else is at its reset value; the inputs still waiting are kept (log 11). -/
def resetDevice (s : State) : State :=
  { State.resetWith s.lanes.length s.params with pending := s.pending, response := .ack }

/-- The registers of the window map (spec R51). -/
inductive WinReg where
  | tile | blk | arg | res | bitpos | ctrl | status | cmd | w1 | w5 | w6 | w7 | id | reserved
  deriving DecidableEq, Repr

/-- A row of the window map: `anySize` is "1, 2, 4, 8", otherwise 4 only (spec R51). -/
structure WinRow where
  reg : WinReg
  start : Nat
  bytes : Nat
  anySize : Bool
  deriving DecidableEq, Repr

/-- The window map (spec R51). -/
def windowMap : List WinRow :=
  [ ⟨.tile, 0x00, 64, true⟩, ⟨.blk, 0x40, 16, true⟩, ⟨.arg, 0x50, 8, true⟩, ⟨.res, 0x58, 8, true⟩,
    ⟨.bitpos, 0x60, 4, false⟩, ⟨.ctrl, 0x64, 4, false⟩, ⟨.status, 0x68, 4, false⟩, ⟨.cmd, 0x6C, 4, false⟩,
    ⟨.w1, 0x70, 4, false⟩, ⟨.w5, 0x74, 4, false⟩, ⟨.w6, 0x78, 4, false⟩, ⟨.w7, 0x7C, 4, false⟩,
    ⟨.id, 0x80, 4, false⟩, ⟨.reserved, 0x84, 124, true⟩ ]

/-- The offset of `CMD` (spec R51). -/
def cmdOffset : Nat := 0x6C

/-- An access lies wholly in a row and has a size legal for it (spec R51, R54). -/
def rowServes (off size : Nat) (row : WinRow) : Bool :=
  row.start ≤ off && off + size ≤ row.start + row.bytes && (row.anySize || size == 4)

/-- The row an access goes to; none when its size is not 1, 2, 4 or 8, it is misaligned, of a size not legal for
its target, or straddles rows (spec R51, R54). -/
def accessRow (off size : Nat) : Option WinRow :=
  if (size = 1 ∨ size = 2 ∨ size = 4 ∨ size = 8) ∧ off % size = 0 then windowMap.find? (rowServes off size)
  else none

/-- Byte `k` of a register as the host reads it (spec R25, R27 to R30, R51, R52). -/
def regByte (ready : Bool) (l : Lane) (reg : WinReg) (k : Nat) : Byte :=
  match reg with
  | .tile => l.tile.toList.getD k 0#8
  | .blk => byteOf l.blk k
  | .arg => byteOf l.arg k
  | .res => byteOf l.res k
  | .bitpos => byteOf (l.bitpos.setWidth 32) k
  | .ctrl => byteOf l.ctrl k
  | .status => byteOf (statusWord ready l) k
  | .cmd => 0#8
  | .w1 => byteOf (l.w1.setWidth 32) k
  | .w5 => byteOf (l.w5.setWidth 32) k
  | .w6 => byteOf (l.w6.setWidth 32) k
  | .w7 => byteOf (l.w7.setWidth 32) k
  | .id => byteOf Config.idValue k
  | .reserved => 0#8

/-- `MemRead(off, size)` on a lane's window, little-endian; none for an illegal access (spec R52, R54). -/
def windowRead (ready : Bool) (l : Lane) (off size : Nat) : Option (BitVec 64) :=
  (accessRow off size).map fun row =>
    BitVec.ofNat 64 (bytesToNat ((List.range size).map fun j => regByte ready l row.reg (off - row.start + j)))

/-- The tile buffer with `size` bytes from byte `k` on replaced by those of `v`, lowest first (spec R52). -/
def tileWrite (t : TileBuf) (k size : Nat) (v : BitVec 64) : TileBuf :=
  Vector.ofFn fun j => if k ≤ j.val ∧ j.val < k + size then byteOf v (j.val - k) else t[j]

/-- What a host write of `size` bytes at byte `k` of a register stores, legalised; `CMD` holds no state and the
read-only registers ignore it (spec R25, R26, R28, R30, R52, R55). -/
def regWrite (l : Lane) (reg : WinReg) (k size : Nat) (v : BitVec 64) : Lane :=
  match reg with
  | .tile => { l with tile := tileWrite l.tile k size v }
  | .blk => { l with blk := setField l.blk (8 * k) (8 * size) v.toNat }
  | .arg => { l with arg := setField l.arg (8 * k) (8 * size) v.toNat }
  | .bitpos => { l with bitpos := legalBitpos (v.setWidth 32) }
  | .ctrl => { l with ctrl := legalCtrl (v.setWidth 32) }
  | .w1 => { l with w1 := v.setWidth 16 }
  | .w5 => { l with w5 := v.setWidth 16 }
  | .w6 => { l with w6 := v.setWidth 16 }
  | .w7 => { l with w7 := v.setWidth 16 }
  | .res => l
  | .status => l
  | .cmd => l
  | .id => l
  | .reserved => l

/-- `MemWrite(off, size, v)` on a lane's window, but for the execution of a command; none for an illegal access
(spec R52, R54, R55). -/
def windowWrite (l : Lane) (off size : Nat) (v : BitVec 64) : Option Lane :=
  (accessRow off size).map fun row => regWrite l row.reg (off - row.start) size v

/-- `WINDOW_BASE` (spec R5, R50). -/
def windowBase (p : Params) : Nat := 256 * p.windowPage

/-- The lane and the window offset of a bus address; none outside every lane's window (spec R38, R50). -/
def locate (p : Params) (lanes addr : Nat) : Option (Nat × Nat) :=
  if windowBase p ≤ addr ∧ addr < windowBase p + 256 * lanes then
    some ((addr - windowBase p) / 256, (addr - windowBase p) % 256)
  else none

/-- The bus address of a window offset of a lane (spec R38, R50). -/
def busAddr (p : Params) (lane off : Nat) : Nat := windowBase p + 256 * lane + off

/-- What serving one input comes to: the write of a command word to `CMD` that is now to be executed, or an
outcome. -/
inductive Served where
  | command (w : CmdWord) (s : State)
  | done (outcome : Host.Outcome State Fault Refusal)

/-- A read served on lane `k`: the value, or an error response; no side effect (spec R52, R54, R55). -/
def serveRead (s : State) (k : Nat) (l : Lane) (off size : Nat) : State :=
  match windowRead s.bc7Ready l off size with
  | some v => { s with cur := k, response := .data v }
  | none => { s with cur := k, response := .error }

/-- A write served on lane `k`, `CMD` apart: the register stores the value, or an error response and no change
(spec R54, R55). -/
def serveWrite (s : State) (k : Nat) (l : Lane) (off size : Nat) (v : BitVec 64) : State :=
  match windowWrite l off size v with
  | some l' => { s with lanes := s.lanes.set k l', cur := k, response := .ack }
  | none => { s with cur := k, response := .error }

/-- One input served in the state that no longer holds it (spec R50 to R58, R330, R370). -/
def serve (s : State) : Txn → Served
  | .reset => .done (.next (resetDevice s))
  | .read addr size =>
    match locate s.params s.lanes.length addr with
    | none => .done (.fault .outsideWindows)
    | some (k, off) =>
      match s.lanes[k]? with
      | none => .done (.fault .outsideWindows)
      | some l => .done (.next (serveRead s k l off size))
  | .write addr size v =>
    match locate s.params s.lanes.length addr with
    | none => .done (.fault .outsideWindows)
    | some (k, off) =>
      match s.lanes[k]? with
      | none => .done (.fault .outsideWindows)
      | some l =>
        if off = cmdOffset ∧ size = 4 then .command (v.setWidth 32) { s with cur := k, response := .ack }
        else .done (.next (serveWrite s k l off size v))

/-- The machine takes its next input; with none waiting nothing happens, for the unit does nothing of its own
(spec R14, R58; log 1). -/
def takeInput (s : State) : Served :=
  match s.pending with
  | [] => .done (.next s)
  | t :: rest => serve { s with pending := rest } t

/-- The host's write of a command word to a lane's `CMD` (spec R76). -/
def commandTxn (p : Params) (lane : Nat) (w : CmdWord) : Txn :=
  .write (busAddr p lane cmdOffset) 4 (w.setWidth 64)

end Sys2Proof.Machine
end

