-- ==== Sys2Proof/Machine/BitPack.lean ====
section
/-! DEFINITION. The bit-packing commands (40_bitpack.md). -/

namespace Sys2Proof.Machine

/-- `CLRBLK` (spec R93). -/
def execClrblk (s : State) : Host.Outcome State Fault Refusal :=
  runCommand s fun l => putLane s { l with blk := 0#128, bitpos := 0#8 }

/-- A width of 0 or above 64 (spec R73, R91, R92). -/
def widthIllegal (width : Nat) : Bool := width == 0 || width > 64

/-- A field of `width` bits at `BITPOS` runs past block bit 127 (spec R91, R92). -/
def pastBlockEnd (l : Lane) (width : Nat) : Bool := l.bitpos.toNat + width > 128

/-- The lane after a `SETBITS` that passes its tests: exactly the addressed bits are overwritten (spec R91). -/
def laneSetbits (l : Lane) (width : Nat) : Lane :=
  { l with blk := setField l.blk l.bitpos.toNat width l.arg.toNat,
           bitpos := BitVec.ofNat 8 (l.bitpos.toNat + width) }

/-- `SETBITS width`: the three tests in their order, then the write (spec R91, R342). -/
def execSetbits (width : Nat) (s : State) : Host.Outcome State Fault Refusal :=
  runCommand s fun l =>
    if widthIllegal width then raiseFault s l .bitfieldRange
    else if pastBlockEnd l width then raiseFault s l .bitfieldRange
    else if l.arg.toNat ≥ 2 ^ width then raiseFault s l .bitfieldRange
    else putLane s (laneSetbits l width)

/-- The lane after a `GETBITS` that passes its tests (spec R92). -/
def laneGetbits (l : Lane) (width : Nat) : Lane :=
  { l with res := BitVec.ofNat 64 (getField l.blk l.bitpos.toNat width),
           bitpos := BitVec.ofNat 8 (l.bitpos.toNat + width) }

/-- `GETBITS width`: the two tests in their order, then the read (spec R92, R342). -/
def execGetbits (width : Nat) (s : State) : Host.Outcome State Fault Refusal :=
  runCommand s fun l =>
    if widthIllegal width then raiseFault s l .bitfieldRange
    else if pastBlockEnd l width then raiseFault s l .bitfieldRange
    else putLane s (laneGetbits l width)

/-- `CHKSIZE bits` (spec R94). -/
def execChksize (bits : Nat) (s : State) : Host.Outcome State Fault Refusal :=
  runCommand s fun l => if l.bitpos.toNat ≠ bits then raiseFault s l .sizeMismatch else s

/-- Bytes 4 to 7 of a half in the opposite order, bytes 0 to 3 kept (spec R95). -/
def fixByteOrder (h : Half) : Half := permuteBytes (fun k => if k < 4 then k else 11 - k) h

/-- `FIXBO.ETC` (spec R95). -/
def execFixboEtc (s : State) : Host.Outcome State Fault Refusal :=
  runCommand s fun l => putLane s { l with blk := blockOf (fixByteOrder (lowHalf l.blk)) (highHalf l.blk) }

/-- `BSWAP64` (spec R96). -/
def execBswap64 (s : State) : Host.Outcome State Fault Refusal :=
  runCommand s fun l => putLane s { l with blk := blockOf (byteReverse (lowHalf l.blk)) (highHalf l.blk) }

end Sys2Proof.Machine
end

