-- ==== Sys2Proof/Machine/Control.lean ====
section
/-! DEFINITION. The control command `NOP` (48_control_ops.md). -/

namespace Sys2Proof.Machine

/-- `NOP` changes no state (spec R331). -/
def execNop (s : State) : Host.Outcome State Fault Refusal := runCommand s fun _ => s

end Sys2Proof.Machine
end

