-- ==== Sys2Proof/Machine/Tables.lean ====
section
/-! DEFINITION. The constant tables of 41_tables.md (R110 to R120) as the spec prints them (UNVERIFIED against the
published formats, log 15), and the two computed BC7 tables (R121, R122). -/

namespace Sys2Proof.Machine

/-- `ETC_MOD[t][j]` (spec R110). -/
def etcModTable : List (List Int) :=
  [ [2, 8, -2, -8],
    [5, 17, -5, -17],
    [9, 29, -9, -29],
    [13, 42, -13, -42],
    [18, 60, -18, -60],
    [24, 80, -24, -80],
    [33, 106, -33, -106],
    [47, 183, -47, -183] ]

/-- `ETC_MOD[t][j]` (spec R110). -/
def etcMod (t j : Nat) : Int := (etcModTable.getD t []).getD j 0

/-- `TH_DIST` (spec R111). -/
def thDistTable : List Nat := [3, 6, 11, 16, 23, 32, 41, 64]

/-- `TH_DIST[d]` (spec R111). -/
def thDist (d : Nat) : Nat := thDistTable.getD d 0

/-- `EAC_MOD[t][k]` (spec R112). -/
def eacModTable : List (List Int) :=
  [ [-3, -6, -9, -15, 2, 5, 8, 14],
    [-3, -7, -10, -13, 2, 6, 9, 12],
    [-2, -5, -8, -13, 1, 4, 7, 12],
    [-2, -4, -6, -13, 1, 3, 5, 12],
    [-3, -6, -8, -12, 2, 5, 7, 11],
    [-3, -7, -9, -11, 2, 6, 8, 10],
    [-4, -7, -8, -11, 3, 6, 7, 10],
    [-3, -5, -8, -11, 2, 4, 7, 10],
    [-2, -6, -8, -10, 1, 5, 7, 9],
    [-2, -5, -8, -10, 1, 4, 7, 9],
    [-2, -4, -8, -10, 1, 3, 7, 9],
    [-2, -5, -7, -10, 1, 4, 6, 9],
    [-3, -4, -7, -10, 2, 3, 6, 9],
    [-1, -2, -3, -10, 0, 1, 2, 9],
    [-4, -6, -8, -9, 3, 5, 7, 8],
    [-3, -5, -7, -9, 2, 4, 6, 8] ]

/-- `EAC_MOD[t][k]` (spec R112). -/
def eacMod (t k : Nat) : Int := (eacModTable.getD t []).getD k 0

/-- The span `EAC_MOD[t][7] - EAC_MOD[t][3]` of a row (spec R112, R239). -/
def eacSpan (t : Nat) : Nat := (eacMod t 7 - eacMod t 3).toNat

/-- `W2`, `W3`, `W4` by selector width; the empty list for a width that has none (spec R113). -/
def weights : Nat → List Nat
  | 2 => [0, 21, 43, 64]
  | 3 => [0, 9, 18, 27, 37, 46, 55, 64]
  | 4 => [0, 4, 9, 13, 17, 21, 26, 30, 34, 38, 43, 47, 51, 55, 60, 64]
  | _ => []

/-- `W_n[j]` (spec R113, R150). -/
def weight (n j : Nat) : Nat := (weights n).getD j 0

/-- The row `BC7MODE[m]`; the defaults stand for a mode that does not exist (spec R114). -/
def bc7Mode : Nat → Bc7ModeRow
  | 0 => ⟨3, 4, 0, 0, 4, 0, 1, 0, 3, 0⟩
  | 1 => ⟨2, 6, 0, 0, 6, 0, 0, 1, 3, 0⟩
  | 2 => ⟨3, 6, 0, 0, 5, 0, 0, 0, 2, 0⟩
  | 3 => ⟨2, 6, 0, 0, 7, 0, 1, 0, 2, 0⟩
  | 4 => ⟨1, 0, 2, 1, 5, 6, 0, 0, 2, 3⟩
  | 5 => ⟨1, 0, 2, 0, 7, 8, 0, 0, 2, 2⟩
  | 6 => ⟨1, 0, 0, 0, 7, 7, 1, 0, 4, 0⟩
  | 7 => ⟨2, 6, 0, 0, 5, 5, 1, 0, 2, 0⟩
  | _ => ⟨0, 0, 0, 0, 0, 0, 0, 0, 0, 0⟩

/-- The masks of `PART2`: bit `i` of mask `π` is `PART2[π][i]` (spec R115). -/
def part2Masks : List Nat :=
  [ 0xCCCC, 0x8888, 0xEEEE, 0xECC8, 0xC880, 0xFEEC, 0xFEC8, 0xEC80,
    0xC800, 0xFFEC, 0xFE80, 0xE800, 0xFFE8, 0xFF00, 0xFFF0, 0xF000,
    0xF710, 0x008E, 0x7100, 0x08CE, 0x008C, 0x7310, 0x3100, 0x8CCE,
    0x088C, 0x3110, 0x6666, 0x366C, 0x17E8, 0x0FF0, 0x718E, 0x399C,
    0xAAAA, 0xF0F0, 0x5A5A, 0x33CC, 0x3C3C, 0x55AA, 0x9696, 0xA55A,
    0x73CE, 0x13C8, 0x324C, 0x3BDC, 0x6996, 0xC33C, 0x9966, 0x0660,
    0x0272, 0x04E4, 0x4E40, 0x2720, 0xC936, 0x936C, 0x39C6, 0x639C,
    0x9336, 0x9CC6, 0x817E, 0xE718, 0xCCF0, 0x0FCC, 0x7744, 0xEE22 ]

/-- The anchor pixels of subset 1 of the two-subset partitions (spec R115). -/
def anch2Table : List Nat :=
  [ 15, 15, 15, 15, 15, 15, 15, 15, 15, 15, 15, 15, 15, 15, 15, 15,
    15, 2, 8, 2, 2, 8, 8, 15, 2, 8, 2, 2, 8, 8, 2, 2,
    15, 15, 6, 8, 2, 8, 15, 15, 2, 8, 2, 2, 2, 15, 15, 6,
    6, 2, 6, 8, 15, 15, 2, 2, 15, 15, 15, 15, 15, 2, 2, 15 ]

/-- `PART2[π][i]` (spec R115). -/
def part2 (part i : Nat) : Nat := (part2Masks.getD part 0) / 2 ^ i % 2

/-- The digit rows of `PART3`, one hexadecimal digit a pixel, pixel 0 first (spec R116). -/
def part3Digits : List Nat :=
  [ 0x0011001102212222, 0x0001001122112221, 0x0000200122112211, 0x0222002200110111,
    0x0000000011221122, 0x0011001100220022, 0x0022002211111111, 0x0011001122112211,
    0x0000000011112222, 0x0000111111112222, 0x0000111122222222, 0x0012001200120012,
    0x0112011201120112, 0x0122012201220122, 0x0011011211221222, 0x0011200122002220,
    0x0001001101121122, 0x0111001120012200, 0x0000112211221122, 0x0022002200221111,
    0x0111011102220222, 0x0001000122212221, 0x0000001101220122, 0x0000110022102210,
    0x0122012200110000, 0x0012001211222222, 0x0110122112210110, 0x0000011012211221,
    0x0022110211020022, 0x0110011020022222, 0x0011012201220011, 0x0000200022112221,
    0x0000000211221222, 0x0222002200120011, 0x0011001200220222, 0x0120012001200120,
    0x0000111122220000, 0x0120120120120120, 0x0120201212010120, 0x0011220011220011,
    0x0011112222000011, 0x0101010122222222, 0x0000000021212121, 0x0022112200221122,
    0x0022001100220011, 0x0220122102201221, 0x0101222222220101, 0x0000212121212121,
    0x0101010101012222, 0x0222011102220111, 0x0002111200021112, 0x0000211221122112,
    0x0222011101110222, 0x0002111211120002, 0x0110011001102222, 0x0000000021122112,
    0x0110011022222222, 0x0022001100110022, 0x0022112211220022, 0x0000000000002112,
    0x0002000100020001, 0x0222122202221222, 0x0101222222222222, 0x0111201122012220 ]

/-- `ANCH3A` (spec R116). -/
def anch3aTable : List Nat :=
  [ 3, 3, 15, 15, 8, 3, 15, 15, 8, 8, 6, 6, 6, 5, 3, 3,
    3, 3, 8, 15, 3, 3, 6, 10, 5, 8, 8, 6, 8, 5, 15, 15,
    8, 15, 3, 5, 6, 10, 8, 15, 15, 3, 15, 5, 15, 15, 15, 15,
    3, 15, 5, 5, 5, 8, 5, 10, 5, 10, 8, 13, 15, 12, 3, 3 ]

/-- `ANCH3B` (spec R116). -/
def anch3bTable : List Nat :=
  [ 15, 8, 8, 3, 15, 15, 3, 8, 15, 15, 15, 15, 15, 15, 15, 8,
    15, 8, 15, 3, 15, 8, 15, 8, 3, 15, 6, 10, 15, 15, 10, 8,
    15, 3, 15, 10, 10, 8, 9, 10, 6, 15, 8, 15, 3, 6, 6, 8,
    15, 3, 15, 15, 15, 15, 15, 15, 15, 15, 15, 15, 3, 15, 15, 8 ]

/-- `PART3[π][i]` (spec R116). -/
def part3 (part i : Nat) : Nat := (part3Digits.getD part 0) / 16 ^ (15 - i) % 16

/-- `subset(NS, π, i)` (spec R117). -/
def subset (ns part i : Nat) : Nat :=
  if ns = 2 then part2 part i else if ns = 3 then part3 part i else 0

/-- `anchor(NS, π, s)` (spec R117). -/
def anchor (ns part s : Nat) : Nat :=
  if s = 0 then 0
  else if ns = 2 then anch2Table.getD part 0
  else if s = 1 then anch3aTable.getD part 0
  else anch3bTable.getD part 0

/-- Pixel `i` is the anchor of its subset (spec R117, R149). -/
def isAnchor (ns part i : Nat) : Bool := i == anchor ns part (subset ns part i)

/-- The 4x4 Bayer matrix, pixel 0 first (spec R119). -/
def bayer : List Nat := [0, 8, 2, 10, 12, 4, 14, 6, 3, 11, 1, 9, 15, 7, 13, 5]

/-- `BAYER31[i]`, the offset of the 5-bit channels (spec R119). -/
def bayer31 (i : Nat) : Int := tdiv (((bayer.getD i 0 : Nat) - 8) * 2) 3

/-- `BAYER63[i]`, the offset of the 6-bit channel (spec R119). -/
def bayer63 (i : Nat) : Int := tdiv (((bayer.getD i 0 : Nat) - 8) * 2) 6

/-- The luma `77 r + 151 g + 28 b`, for integers of either sign (spec R120). -/
def luma (r g b : Int) : Int := 77 * r + 151 * g + 28 * b

/-- The value a single-colour table entry reconstructs: low and high endpoint expanded, interpolated at the fixed
weight (spec R121, R122). -/
def optValue (n weight lop hip lo hi : Nat) : Nat :=
  interp (expand n (2 * lo + lop)) (expand n (2 * hi + hip)) weight

/-- The entry of a single-colour table: the first pair, `lo` outer and `hi` inner, with the least squared error
(spec R121, R122). -/
def optEntry (n weight lop hip c : Nat) : OptEntry :=
  let err := fun pair : Nat × Nat => sqDiff (optValue n weight lop hip pair.1 pair.2) c
  let best := leastBy err (0, 0) (pairsBelow (2 ^ (n - 1)))
  ⟨err best, best.1, best.2⟩

/-- `OPT1[c][p]` as `INIT.BC7` computes it, at the fixed selector 2 of `W3` (spec R121). -/
def opt1Entry (c p : Nat) : OptEntry := optEntry 7 (weight 3 2) p p c

/-- `OPT7[c][hp][lp]` as `INIT.BC7` computes it, at the fixed selector 1 of `W2` (spec R122). -/
def opt7Entry (c hp lp : Nat) : OptEntry := optEntry 6 (weight 2 1) lp hp c

/-- The whole of `OPT1` (spec R121, R31). -/
@[irreducible] def opt1Table : Opt1 := Vector.ofFn fun k => opt1Entry (k.val / 2) (k.val % 2)

/-- The whole of `OPT7` (spec R122, R31). -/
@[irreducible] def opt7Table : Opt7 := Vector.ofFn fun k => opt7Entry (k.val / 4) (k.val / 2 % 2) (k.val % 2)

/-- `OPT1[c][p]` read from the state's table (spec R31). -/
def opt1At (t : Opt1) (c p : Nat) : OptEntry := t.toList.getD (2 * c + p) default

/-- `OPT7[c][hp][lp]` read from the state's table (spec R31). -/
def opt7At (t : Opt7) (c hp lp : Nat) : OptEntry := t.toList.getD (4 * c + 2 * hp + lp) default

end Sys2Proof.Machine
end

