-- ==== Sys2Proof/Machine/FormatsBc.lean ====
section
/-! DEFINITION. Block layouts and reconstruction functions of BC1, BC3, BC4, BC5 and BC7 (42_formats_bc.md, R140 to
R153). -/

namespace Sys2Proof.Machine

/-- The channel value `BC1_IDX3_ALPHA` (spec R5, R141). -/
def idx3Value : Idx3Alpha → Nat
  | .opaqueBlack => 255
  | .transparentBlack => 0

/-- The expansion of an RGB565 number (spec R140, R141). -/
def expand565 (c : Nat) : Colour := [expand 5 (field c 11 5), expand 6 (field c 5 6), expand 5 (field c 0 5)]

/-- `bc1_palette(c0, c1, four)` (spec R141). -/
def bc1Palette (idx3 : Idx3Alpha) (c0 c1 : Nat) (four : Bool) : List Px :=
  let a := expand565 c0
  let b := expand565 c1
  if c0 > c1 ∨ four = true then
    [ pxOf a 255, pxOf b 255,
      pxOf (List.zipWith (fun x y => (2 * x + y) / 3) a b) 255,
      pxOf (List.zipWith (fun x y => (x + 2 * y) / 3) a b) 255 ]
  else
    [ pxOf a 255, pxOf b 255,
      pxOf (List.zipWith (fun x y => (x + y) / 2) a b) 255,
      ⟨0, 0, 0, idx3Value idx3⟩ ]

/-- `c0` of a BC1 block (spec R140). -/
def bc1C0 (h : Half) : Nat := getField h 0 16

/-- `c1` of a BC1 block (spec R140). -/
def bc1C1 (h : Half) : Nat := getField h 16 16

/-- `sel[i]` of a BC1 block (spec R140). -/
def bc1Sel (h : Half) (i : Nat) : Nat := getField h (32 + 2 * i) 2

/-- `bc1_decode(B, four)` (spec R153). -/
def bc1Decode (idx3 : Idx3Alpha) (h : Half) (four : Bool) : List Px :=
  let pal := bc1Palette idx3 (bc1C0 h) (bc1C1 h) four
  (List.range 16).map fun i => pal.getD (bc1Sel h i) default

/-- `bc4_palette(e0, e1)` (spec R143). -/
def bc4Palette (e0 e1 : Nat) : List Nat :=
  if e0 > e1 then
    [e0, e1] ++ [2, 3, 4, 5, 6, 7].map fun k => ((8 - k) * e0 + (k - 1) * e1) / 7
  else
    [e0, e1] ++ ([2, 3, 4, 5].map fun k => ((6 - k) * e0 + (k - 1) * e1) / 5) ++ [0, 255]

/-- `e0` of a BC4 block (spec R142). -/
def bc4E0 (h : Half) : Nat := getField h 0 8

/-- `e1` of a BC4 block (spec R142). -/
def bc4E1 (h : Half) : Nat := getField h 8 8

/-- `idx[i]` of a BC4 block (spec R142). -/
def bc4Idx (h : Half) (i : Nat) : Nat := getField h (16 + 3 * i) 3

/-- `bc4_decode(B)` (spec R153). -/
def bc4Decode (h : Half) : List Nat :=
  let v := bc4Palette (bc4E0 h) (bc4E1 h)
  (List.range 16).map fun i => v.getD (bc4Idx h i) 0

/-- The number of low-order zero bits of a number, at most `fuel`. -/
def trailingZeros : Nat → Nat → Nat
  | 0, _ => 0
  | fuel + 1, x => if x % 2 = 1 then 0 else 1 + trailingZeros fuel (x / 2)

/-- The mode of a BC7 block, 8 for the reserved mode `BLK[0] = 0` (spec R146, R152). -/
def bc7ModeOf (b : Block) : Nat := trailingZeros 8 (getField b 0 8)

/-- The number of p-bits of a mode (spec R114, R147). -/
def pbitCount (m : Bc7ModeRow) : Nat := m.epb * (2 * m.ns) + m.spb * m.ns

/-- The widths of steps 1 to 7 of R147: mode, partition, rotation, idxsel, colour (R, then G, then B, of every
endpoint), alpha, p-bits. A field a mode lacks has width 0. -/
def bc7HeadWidths (mode : Nat) : List Nat :=
  let m := bc7Mode mode
  [mode + 1, m.pb, m.rb, m.isb] ++ List.replicate (6 * m.ns) m.cb ++ List.replicate (2 * m.ns) m.ab
    ++ List.replicate (pbitCount m) 1

/-- The widths of steps 8 and 9 of R147: an anchor's selector is one bit short (spec R149). -/
def bc7SelWidths (mode part : Nat) : List Nat :=
  let m := bc7Mode mode
  ((List.range 16).map fun i => if isAnchor m.ns part i then m.ib - 1 else m.ib)
    ++ ((List.range 16).map fun i => if i = 0 then m.ib2 - 1 else m.ib2)

/-- All field widths of a block of a mode and partition (spec R147). -/
def bc7Widths (mode part : Nat) : List Nat := bc7HeadWidths mode ++ bc7SelWidths mode part

/-- The partition field of a block of a mode (spec R147). -/
def bc7Part (mode : Nat) (b : Block) : Nat := getField b (mode + 1) (bc7Mode mode).pb

/-- The fields of a BC7 block (spec R147). -/
structure Bc7Fields where
  mode : Nat
  part : Nat
  rot : Nat
  isb : Nat
  /-- `q[e]` as R, G, B, A; the A of a mode without alpha is 0 and is not used. -/
  q : List Colour
  pb : List Nat
  sel1 : List Nat
  sel2 : List Nat
  deriving DecidableEq, Repr, Inhabited

/-- The fields of a block of mode `mode`, read in the order of R147. -/
def bc7Fields (mode : Nat) (b : Block) : Bc7Fields :=
  let m := bc7Mode mode
  let part := bc7Part mode b
  let fs := splitFields (bc7Widths mode part) b.toNat
  let pbAt := 4 + 8 * m.ns
  let selAt := pbAt + pbitCount m
  { mode := mode, part := part, rot := fs.getD 2 0, isb := fs.getD 3 0,
    q := (List.range (2 * m.ns)).map fun e =>
      [fs.getD (4 + e) 0, fs.getD (4 + 2 * m.ns + e) 0, fs.getD (4 + 4 * m.ns + e) 0, fs.getD (4 + 6 * m.ns + e) 0],
    pb := (fs.drop pbAt).take (pbitCount m),
    sel1 := (fs.drop selAt).take 16,
    sel2 := (fs.drop (selAt + 16)).take 16 }

/-- The p-bit that belongs to endpoint `e`, if the mode has p-bits (spec R148). -/
def endpointPbit (m : Bc7ModeRow) (pb : List Nat) (e : Nat) : Option Nat :=
  if m.epb = 1 then some (pb.getD e 0) else if m.spb = 1 then some (pb.getD (e / 2) 0) else none

/-- A stored component with its p-bit, widened to 8 bits (spec R148). -/
def reconstruct (width : Nat) (pbit : Option Nat) (q : Nat) : Nat :=
  match pbit with
  | some p => expand (width + 1) (2 * q + p)
  | none => expand width q

/-- `E[e]`, R, G, B and A (spec R148). -/
def bc7Endpoint (m : Bc7ModeRow) (pb : List Nat) (q : List Colour) (e : Nat) : Colour :=
  let c := q.getD e []
  let p := endpointPbit m pb e
  [ reconstruct m.cb p (chan c 0), reconstruct m.cb p (chan c 1), reconstruct m.cb p (chan c 2),
    if m.ab = 0 then 255 else reconstruct m.ab p (chan c 3) ]

/-- The colour and alpha weights of pixel `i` (spec R150). -/
def bc7Weights (m : Bc7ModeRow) (f : Bc7Fields) (i : Nat) : Nat × Nat :=
  let w1 := weight m.ib (f.sel1.getD i 0)
  let w2 := weight m.ib2 (f.sel2.getD i 0)
  if m.ib2 = 0 then (w1, w1) else if f.isb = 0 then (w1, w2) else (w2, w1)

/-- Channel rotation (spec R151). -/
def rotatePx (rot : Nat) (p : Px) : Px :=
  match rot with
  | 1 => ⟨p.a, p.g, p.b, p.r⟩
  | 2 => ⟨p.r, p.a, p.b, p.g⟩
  | 3 => ⟨p.r, p.g, p.a, p.b⟩
  | _ => p

/-- Pixel `i` of a block given by its fields: interpolation, then rotation (spec R150, R151). -/
def bc7Pixel (f : Bc7Fields) (i : Nat) : Px :=
  let m := bc7Mode f.mode
  let s := subset m.ns f.part i
  let l := bc7Endpoint m f.pb f.q (2 * s)
  let h := bc7Endpoint m f.pb f.q (2 * s + 1)
  let w := bc7Weights m f i
  rotatePx f.rot
    ⟨interp (chan l 0) (chan h 0) w.1, interp (chan l 1) (chan h 1) w.1, interp (chan l 2) (chan h 2) w.1,
      interp (chan l 3) (chan h 3) w.2⟩

/-- `bc7_decode(B)`; the reserved mode gives sixteen `(0, 0, 0, 0)` (spec R152, R153). -/
def bc7Decode (b : Block) : List Px :=
  let mode := bc7ModeOf b
  if mode = 8 then List.replicate 16 ⟨0, 0, 0, 0⟩
  else
    let f := bc7Fields mode b
    (List.range 16).map (bc7Pixel f)

end Sys2Proof.Machine
end

