-- ==== Sys2Proof/Machine/Decoders.lean ====
section
/-! DEFINITION. The block decoder commands (44_decoders_bc.md). -/

namespace Sys2Proof.Machine

/-- The pixels of `DEC.BC1` (spec R201). -/
def decodeBc1 (idx3 : Idx3Alpha) (b : Block) : List Px := bc1Decode idx3 (lowHalf b) false

/-- The pixels of `DEC.BC3`: the colour half always in four-colour mode, alpha from the low half (spec R202, R144). -/
def decodeBc3 (idx3 : Idx3Alpha) (b : Block) : List Px :=
  List.zipWith (fun c a => { c with a := a }) (bc1Decode idx3 (highHalf b) true) (bc4Decode (lowHalf b))

/-- The pixels of `DEC.BC4` (spec R203). -/
def decodeBc4 (b : Block) : List Px := (bc4Decode (lowHalf b)).map fun v => ⟨v, 0, 0, 255⟩

/-- The pixels of `DEC.BC5` (spec R204). -/
def decodeBc5 (b : Block) : List Px :=
  List.zipWith (fun r g => ⟨r, g, 0, 255⟩) (bc4Decode (lowHalf b)) (bc4Decode (highHalf b))

/-- `DEC.BC1` (spec R200, R201). -/
def execDecBc1 (s : State) : Host.Outcome State Fault Refusal :=
  runCommand s fun l => putLane s (laneWithTile l (decodeBc1 s.params.idx3 l.blk) 64#8)

/-- `DEC.BC3` (spec R200, R202). -/
def execDecBc3 (s : State) : Host.Outcome State Fault Refusal :=
  runCommand s fun l => putLane s (laneWithTile l (decodeBc3 s.params.idx3 l.blk) 128#8)

/-- `DEC.BC4` (spec R200, R203). -/
def execDecBc4 (s : State) : Host.Outcome State Fault Refusal :=
  runCommand s fun l => putLane s (laneWithTile l (decodeBc4 l.blk) 64#8)

/-- `DEC.BC5` (spec R200, R204). -/
def execDecBc5 (s : State) : Host.Outcome State Fault Refusal :=
  runCommand s fun l => putLane s (laneWithTile l (decodeBc5 l.blk) 128#8)

/-- `DEC.BC7`; it does not need `BC7_READY` (spec R200, R205). -/
def execDecBc7 (s : State) : Host.Outcome State Fault Refusal :=
  runCommand s fun l => putLane s (laneWithTile l (bc7Decode l.blk) 128#8)

end Sys2Proof.Machine
end

