-- ==== Sys2Proof/Machine/FormatsEtc.lean ====
section
/-! DEFINITION. Block layouts and reconstruction functions of ETC1, ETC2 and EAC (43_formats_etc.md, R170 to R184),
on the big-endian word `W` of a half (R8). They are no commands (R4); the encoders are stated through them. -/

namespace Sys2Proof.Machine

/-- The column of pixel `i` (spec R11). -/
def colOf (i : Nat) : Nat := i % 4

/-- The row of pixel `i` (spec R11). -/
def rowOf (i : Nat) : Nat := i / 4

/-- The plane position `n(i) = 4x + y` of pixel `i` (spec R170). -/
def planePos (i : Nat) : Nat := 4 * colOf i + rowOf i

/-- The 2-bit selector of pixel `i` (spec R170). -/
def etcSel (w i : Nat) : Nat := 2 * field w (16 + planePos i) 1 + field w (planePos i) 1

/-- The two selector planes of sixteen selectors (spec R170, R229). -/
def etcPlanes (sel : List Nat) : Nat :=
  ((List.range 16).map fun i =>
    sel.getD i 0 / 2 % 2 * 2 ^ (16 + planePos i) + sel.getD i 0 % 2 * 2 ^ planePos i).sum

/-- The modes of a colour block (spec R171). -/
inductive EtcMode where
  | individual | differential | tMode | hMode | planar
  deriving DecidableEq, Repr

/-- `R + dR`, for the base field at bit `lo + 3` and the delta field at bit `lo` (spec R171). -/
def diffSum (w lo : Nat) : Int := (field w (lo + 3) 5 : Int) + sext3 (field w lo 3)

/-- A differential sum outside 0..31 (spec R171). -/
def sumOverflows (v : Int) : Bool := v < 0 || v > 31

/-- Mode selection (spec R171). -/
def etcModeOf (w : Nat) : EtcMode :=
  if field w 33 1 = 0 then .individual
  else if sumOverflows (diffSum w 56) then .tMode
  else if sumOverflows (diffSum w 48) then .hMode
  else if sumOverflows (diffSum w 40) then .planar
  else .differential

/-- The sub-block of pixel `i` (spec R174). -/
def subBlock (flip i : Nat) : Nat := if flip = 0 then colOf i / 2 else rowOf i / 2

/-- The base colour of sub-block `s` in individual mode (spec R172). -/
def individualBase (w s : Nat) : Colour :=
  if s = 0 then [expand 4 (field w 60 4), expand 4 (field w 52 4), expand 4 (field w 44 4)]
  else [expand 4 (field w 56 4), expand 4 (field w 48 4), expand 4 (field w 40 4)]

/-- The base colour of sub-block `s` in differential mode (spec R173). -/
def differentialBase (w s : Nat) : Colour :=
  if s = 0 then [expand 5 (field w 59 5), expand 5 (field w 51 5), expand 5 (field w 43 5)]
  else [expand 5 (diffSum w 56).toNat, expand 5 (diffSum w 48).toNat, expand 5 (diffSum w 40).toNat]

/-- The table index of sub-block `s` (spec R172, R173). -/
def etcTable (w s : Nat) : Nat := if s = 0 then field w 37 3 else field w 34 3

/-- A modifier added to every channel, clamped (spec R174). -/
def addMod (c : Colour) (m : Int) : Colour := c.map fun v => clamp255 ((v : Int) + m)

/-- A pixel of the individual or differential mode, alpha 255 (spec R174). -/
def etc1Pixel (w : Nat) (base : Nat → Colour) (i : Nat) : Px :=
  let s := subBlock (field w 32 1) i
  pxOf (addMod (base s) (etcMod (etcTable w s) (etcSel w i))) 255

/-- `(paint[j(i)], 255)`, a pixel of the T or H mode (spec R175, R176). -/
def paintPixel (w : Nat) (paint : List Colour) (i : Nat) : Px := pxOf (paint.getD (etcSel w i) []) 255

/-- A colour of three 4-bit fields, widened (spec R175, R176). -/
def expand4Colour (c : Colour) : Colour := c.map (expand 4)

/-- `(R1, G1, B1)` of T mode (spec R175). -/
def tColour1 (w : Nat) : Colour := [4 * field w 59 2 + field w 56 2, field w 52 4, field w 48 4]

/-- `(R2, G2, B2)` of T mode (spec R175). -/
def tColour2 (w : Nat) : Colour := [field w 44 4, field w 40 4, field w 36 4]

/-- The distance index of T mode (spec R175). -/
def tDistIndex (w : Nat) : Nat := 2 * field w 34 2 + field w 32 1

/-- The paint colours of T mode from the two widened colours and the distance (spec R175). -/
def tPaint (a b : Colour) (d : Nat) : List Colour := [a, addMod b d, b, addMod b (-(d : Int))]

/-- `(R1, G1, B1)` of H mode (spec R176). -/
def hColour1 (w : Nat) : Colour :=
  [field w 59 4, 2 * field w 56 3 + field w 52 1, 8 * field w 51 1 + field w 47 3]

/-- `(R2, G2, B2)` of H mode (spec R176). -/
def hColour2 (w : Nat) : Colour := [field w 43 4, field w 39 4, field w 35 4]

/-- `256 R + 16 G + B` of a colour of 4-bit fields (spec R176, R234). -/
def colourValue (c : Colour) : Nat := 256 * chan c 0 + 16 * chan c 1 + chan c 2

/-- The distance index of H mode; its lowest bit is the order of the two colours (spec R176). -/
def hDistIndex (w : Nat) : Nat :=
  4 * field w 34 1 + 2 * field w 32 1 + (if colourValue (hColour1 w) ≥ colourValue (hColour2 w) then 1 else 0)

/-- The paint colours of H mode (spec R176). -/
def hPaint (a b : Colour) (d : Nat) : List Colour :=
  [addMod a d, addMod a (-(d : Int)), addMod b d, addMod b (-(d : Int))]

/-- The pixel values of planar mode; the division rounds toward minus infinity (spec R177, R6). -/
def planarChan (o h v x y : Nat) : Nat :=
  clamp255 (((x : Int) * ((h : Int) - o) + (y : Int) * ((v : Int) - o) + 4 * (o : Int) + 2) / 4)

/-- `O` of planar mode (spec R177). -/
def planarO (w : Nat) : Colour :=
  [ expand 6 (field w 57 6), expand 7 (64 * field w 56 1 + field w 49 6),
    expand 6 (32 * field w 48 1 + 8 * field w 43 2 + field w 39 3) ]

/-- `H` of planar mode (spec R177). -/
def planarH (w : Nat) : Colour :=
  [expand 6 (2 * field w 34 5 + field w 32 1), expand 7 (field w 25 7), expand 6 (field w 19 6)]

/-- `V` of planar mode (spec R177). -/
def planarV (w : Nat) : Colour := [expand 6 (field w 13 6), expand 7 (field w 6 7), expand 6 (field w 0 6)]

/-- A pixel of planar mode, alpha 255 (spec R177). -/
def planarPixel (w i : Nat) : Px :=
  let ch := fun k =>
    planarChan (chan (planarO w) k) (chan (planarH w) k) (chan (planarV w) k) (colOf i) (rowOf i)
  ⟨ch 0, ch 1, ch 2, 255⟩

/-- Pixel `i` of the colour block with word `W` (spec R179). -/
def etcPixel (w i : Nat) : Px :=
  match etcModeOf w with
  | .individual => etc1Pixel w (individualBase w) i
  | .differential => etc1Pixel w (differentialBase w) i
  | .tMode =>
    paintPixel w (tPaint (expand4Colour (tColour1 w)) (expand4Colour (tColour2 w)) (thDist (tDistIndex w))) i
  | .hMode =>
    paintPixel w (hPaint (expand4Colour (hColour1 w)) (expand4Colour (hColour2 w)) (thDist (hDistIndex w))) i
  | .planar => planarPixel w i

/-- `etc_decode(B)`, the sixteen pixels (spec R179). -/
def etcDecode (h : Half) : List Px := (List.range 16).map (etcPixel (wordOf h))

/-- The block is a valid ETC1 block (spec R178). -/
def validEtc1 (h : Half) : Bool :=
  match etcModeOf (wordOf h) with
  | .individual => true
  | .differential => true
  | _ => false

/-- The 3-bit index of pixel `i` of an EAC block (spec R180). -/
def eacIdx (w i : Nat) : Nat := field w (45 - 3 * planePos i) 3

/-- The 8-bit reconstruction of one value (spec R181). -/
def eac8Value (base mul tab idx : Nat) : Nat := clamp255 ((base : Int) + mul * eacMod tab idx)

/-- The 11-bit reconstruction of one value (spec R182). -/
def eac11Value (base mul tab idx : Nat) : Nat :=
  (clamp (8 * (base : Int) + 4 + eacMod tab idx * (if mul > 0 then 8 * (mul : Int) else 1)) 0 2047).toNat

/-- `eac8_decode(B)` (spec R181). -/
def eac8Decode (h : Half) : List Nat :=
  let w := wordOf h
  (List.range 16).map fun i => eac8Value (field w 56 8) (field w 52 4) (field w 48 4) (eacIdx w i)

/-- The sixteen pixels of an ETC2_RGBA block: the colour of `BLK[8..15]`, its alpha replaced by that of `BLK[0..7]`
(spec R183). -/
def etc2RgbaDecode (b : Block) : List Px :=
  List.zipWith (fun q a => { q with a := a }) (etcDecode (highHalf b)) (eac8Decode (lowHalf b))

/-- `eac11_decode(B)` (spec R182). -/
def eac11Decode (h : Half) : List Nat :=
  let w := wordOf h
  (List.range 16).map fun i => eac11Value (field w 56 8) (field w 52 4) (field w 48 4) (eacIdx w i)

/-- The 8-bit view `eac11_view8` of the 11-bit reconstruction (spec R182). -/
def eac11View8 (h : Half) : List Nat := (eac11Decode h).map (· / 8)

end Sys2Proof.Machine
end

