-- ==== Sys2Proof/Machine/SearchEtc.lean ====
section
/-! DEFINITION. The reference encoders of ETC1, ETC2 and EAC (45_encoders_etc.md, R225 to R240). A tile is given by
the sixteen R, G, B colours, or the sixteen values of one channel. -/

namespace Sys2Proof.Machine

/-- All entries are equal: `solid_rgb` and `solid_ch` (spec R221). -/
def solid {α : Type} [DecidableEq α] : List α → Bool
  | [] => true
  | x :: xs => xs.all (· == x)

/-- Pixel `i` of a tile. -/
def pixelAt (p : List Colour) (i : Nat) : Colour := p.getD i []

/-- The pixels of sub-block `s` under a flip, in ascending order (spec R174). -/
def subPixels (flip s : Nat) : List Nat := (List.range 16).filter fun i => subBlock flip i == s

/-- `avg[flip][s]` (spec R225). -/
def subAvg (p : List Colour) (flip s : Nat) : Colour :=
  [0, 1, 2].map fun ch => (((subPixels flip s).map fun i => chan (pixelAt p i) ch).sum + 4) / 8

/-- An ETC1 candidate: its flip, whether it is differential, the stored and the widened base colours (spec R226). -/
structure EtcCand where
  flip : Nat
  diff : Bool
  q1 : Colour
  q2 : Colour
  base1 : Colour
  base2 : Colour
  deriving DecidableEq, Repr, Inhabited

/-- `q2` of the differential candidate, the delta clamped to `-4..3` (spec R226). -/
def clampDelta (q1 q2 : Nat) : Nat := ((q1 : Int) + clamp ((q2 : Int) - q1) (-4) 3).toNat

/-- Candidate `k = 2*flip + mode` (spec R226). -/
def etcCand (p : List Colour) (k : Nat) : EtcCand :=
  let flip := k / 2
  let a0 := subAvg p flip 0
  let a1 := subAvg p flip 1
  if k % 2 = 0 then
    let q1 := a0.map (quant 4)
    let q2 := a1.map (quant 4)
    ⟨flip, false, q1, q2, q1.map (expand 4), q2.map (expand 4)⟩
  else
    let q1 := a0.map (quant 5)
    let q2 := List.zipWith clampDelta q1 (a1.map (quant 5))
    ⟨flip, true, q1, q2, q1.map (expand 5), q2.map (expand 5)⟩

/-- The base colour of sub-block `s` of a candidate. -/
def candBase (c : EtcCand) (s : Nat) : Colour := if s = 0 then c.base1 else c.base2

/-- `EA[k]`, the error against the base colours (spec R227). -/
def candErr (p : List Colour) (c : EtcCand) : Nat :=
  ((List.range 16).map fun i => sqErr (pixelAt p i) (candBase c (subBlock c.flip i))).sum

/-- The chosen candidate, the first of the least error (spec R227). -/
def bestCand (p : List Colour) : EtcCand := leastBy (candErr p) default ((List.range 4).map (etcCand p))

/-- `L(i)`, the luma of the difference from a base colour (spec R228). -/
def lumaDiff (c base : Colour) : Int :=
  luma ((chan c 0 : Int) - chan base 0) ((chan c 1 : Int) - chan base 1) ((chan c 2 : Int) - chan base 2)

/-- `(L - 256 ETC_MOD[t][j])^2` (spec R228). -/
def modErr (l : Int) (t j : Nat) : Nat := (l - 256 * etcMod t j).natAbs * (l - 256 * etcMod t j).natAbs

/-- The selector of a pixel under table `t`, the first of the least error (spec R228). -/
def bestSel (l : Int) (t : Nat) : Nat := leastBelow 4 (modErr l t)

/-- `ET[t]` over the luma differences of a sub-block (spec R228). -/
def tableErr (ls : List Int) (t : Nat) : Nat := (ls.map fun l => modErr l t (bestSel l t)).sum

/-- `t[s]` (spec R228). -/
def bestTable (ls : List Int) : Nat := leastBelow 8 (tableErr ls)

/-- The word of an ETC1 block (spec R229, R172, R173). `q1` and `q2` are the stored base colours; in differential
mode the second is stored as the delta modulo 8. -/
def etc1Word (diff : Bool) (q1 q2 : Colour) (t1 t2 flip : Nat) (sel : List Nat) : Nat :=
  let delta := fun ch : Nat => (chan q2 ch + 8 - chan q1 ch % 8) % 8
  let colour :=
    if diff then
      chan q1 0 * 2 ^ 59 + delta 0 * 2 ^ 56 + chan q1 1 * 2 ^ 51 + delta 1 * 2 ^ 48 + chan q1 2 * 2 ^ 43
        + delta 2 * 2 ^ 40
    else
      chan q1 0 * 2 ^ 60 + chan q2 0 * 2 ^ 56 + chan q1 1 * 2 ^ 52 + chan q2 1 * 2 ^ 48 + chan q1 2 * 2 ^ 44
        + chan q2 2 * 2 ^ 40
  colour + t1 * 2 ^ 37 + t2 * 2 ^ 34 + diff.toNat * 2 ^ 33 + flip * 2 ^ 32 + etcPlanes sel

/-- The solid path of ETC1 (spec R230): per channel, the 5-bit base whose widened value plus the modifier
`ETC_MOD[0][0]` is nearest. -/
def etcSolidQuant (v : Nat) : Nat := leastBelow 32 fun q => absDiff (clamp255 ((expand 5 q : Int) + etcMod 0 0)) v

/-- `enc_etc1(p)`, the reference function (spec R230). -/
def refEncEtc1 (p : List Colour) : Half :=
  if solid p then
    let q := (pixelAt p 0).map etcSolidQuant
    halfOfWord (etc1Word true q q 0 0 0 [])
  else
    let c := bestCand p
    let diffOf := fun i => lumaDiff (pixelAt p i) (candBase c (subBlock c.flip i))
    let t0 := bestTable ((subPixels c.flip 0).map diffOf)
    let t1 := bestTable ((subPixels c.flip 1).map diffOf)
    let sel := (List.range 16).map fun i => bestSel (diffOf i) (if subBlock c.flip i = 0 then t0 else t1)
    halfOfWord (etc1Word c.diff c.q1 c.q2 t0 t1 c.flip sel)

/-- `lum[i]` (spec R232). -/
def lumaOf (c : Colour) : Nat := 77 * chan c 0 + 151 * chan c 1 + 28 * chan c 2

/-- The pixels not brighter than the mean: `CA` (spec R232). -/
def darkCluster (p : List Colour) : List Colour :=
  p.filter fun c => decide (16 * lumaOf c ≤ (p.map lumaOf).sum)

/-- The pixels brighter than the mean: `CB` (spec R232). -/
def brightCluster (p : List Colour) : List Colour :=
  p.filter fun c => decide (16 * lumaOf c > (p.map lumaOf).sum)

/-- The 4-bit colour of a cluster (spec R232). -/
def clusterColour (x : List Colour) : Colour :=
  [0, 1, 2].map fun ch => quant 4 (((x.map fun c => chan c ch).sum + x.length / 2) / x.length)

/-- The selector of a pixel under a paint set (spec R233). -/
def paintSel (paint : List Colour) (c : Colour) : Nat := leastBelow 4 fun j => sqErr (paint.getD j []) c

/-- `sel` of a paint set (spec R233). -/
def paintSels (paint p : List Colour) : List Nat := p.map (paintSel paint)

/-- `tot` of a paint set (spec R233). -/
def paintErr (paint p : List Colour) : Nat := (p.map fun c => sqErr (paint.getD (paintSel paint c) []) c).sum

/-- The true squared R, G, B error of a decoded block (spec R233). -/
def blockErr (decoded : List Px) (p : List Colour) : Nat :=
  (List.zipWith (fun q c => sqErr (rgbOf q) c) decoded p).sum

/-- The word of a T block, padding included (spec R235, R175). -/
def tWord (b1 b2 : Colour) (di : Nat) (sel : List Nat) : Nat :=
  let v := chan b1 0 / 4
  let w := chan b1 0 % 4
  let padding := if v + w ≥ 4 then 7 * 2 ^ 61 else 2 ^ 58
  padding + v * 2 ^ 59 + w * 2 ^ 56 + chan b1 1 * 2 ^ 52 + chan b1 2 * 2 ^ 48 + chan b2 0 * 2 ^ 44
    + chan b2 1 * 2 ^ 40 + chan b2 2 * 2 ^ 36 + di / 2 * 2 ^ 34 + 2 ^ 33 + di % 2 * 2 ^ 32 + etcPlanes sel

/-- The word of an H block, padding included (spec R235, R176). -/
def hWord (b1 b2 : Colour) (di : Nat) (sel : List Nat) : Nat :=
  let g1a := chan b1 1 / 2
  let g1b := chan b1 1 % 2
  let b1a := chan b1 2 / 8
  let b1b := chan b1 2 % 8
  let padR := if g1a ≥ 4 then 2 ^ 63 else 0
  let padG := if 2 * g1b + b1a + b1b / 2 ≥ 4 then 7 * 2 ^ 53 else 2 ^ 50
  padR + chan b1 0 * 2 ^ 59 + g1a * 2 ^ 56 + padG + g1b * 2 ^ 52 + b1a * 2 ^ 51 + b1b * 2 ^ 47
    + chan b2 0 * 2 ^ 43 + chan b2 1 * 2 ^ 39 + chan b2 2 * 2 ^ 35 + di / 4 * 2 ^ 34 + 2 ^ 33
    + di / 2 % 2 * 2 ^ 32 + etcPlanes sel

/-- A T or H candidate: its paint colours and how it is packed once its selectors are known (spec R234). -/
inductive PaintCand where
  | t (b1 b2 : Colour) (di : Nat)
  | h (b1 b2 : Colour) (di : Nat)
  deriving DecidableEq, Repr

/-- The paint colours of a candidate (spec R234). -/
def candPaint : PaintCand → List Colour
  | .t b1 b2 di => tPaint (expand4Colour b1) (expand4Colour b2) (thDist di)
  | .h b1 b2 di => hPaint (expand4Colour b1) (expand4Colour b2) (thDist di)

/-- The word of a candidate (spec R235). -/
def candWord (p : List Colour) (c : PaintCand) : Nat :=
  match c with
  | .t b1 b2 di => tWord b1 b2 di (paintSels (candPaint c) p)
  | .h b1 b2 di => hWord b1 b2 di (paintSels (candPaint c) p)

/-- The T candidates in the order they are tried (spec R234). -/
def tCands (qa qb : Colour) : List PaintCand :=
  ((List.range 8).map fun di => .t qa qb di) ++ (List.range 8).map fun di => .t qb qa di

/-- The H candidate of a distance index, its colours ordered to realise the index's lowest bit; none for an even
index with equal colours (spec R234). -/
def hCand (qa qb : Colour) (di : Nat) : Option PaintCand :=
  let va := colourValue qa
  let vb := colourValue qb
  if va = vb then if di % 2 = 0 then none else some (.h qa qb di)
  else if va > vb ↔ di % 2 = 1 then some (.h qa qb di)
  else some (.h qb qa di)

/-- All T and H candidates in the order they are tried (spec R234). -/
def paintCands (qa qb : Colour) : List PaintCand := tCands qa qb ++ (List.range 8).filterMap (hCand qa qb)

/-- One trial: only a strictly lower error replaces the best so far (spec R234). -/
def tryPaint (p : List Colour) (best : Nat × Half) (c : PaintCand) : Nat × Half :=
  if paintErr (candPaint c) p < best.1 then (paintErr (candPaint c) p, halfOfWord (candWord p c)) else best

/-- `enc_etc2_rgb(p, th)`, the reference function (spec R234, R236). -/
def refEncEtc2Rgb (p : List Colour) (th : Bool) : Half :=
  let b := refEncEtc1 p
  if th = false ∨ solid p = true then b
  else if (brightCluster p).isEmpty then b
  else
    ((paintCands (clusterColour (darkCluster p)) (clusterColour (brightCluster p))).foldl (tryPaint p)
      (blockErr (etcDecode b) p, b)).2

/-- The word of an EAC block (spec R240). -/
def eacWord (base mul tab : Nat) (idx : List Nat) : Nat :=
  base * 2 ^ 56 + mul * 2 ^ 52 + tab * 2 ^ 48
    + ((List.range 16).map fun i => idx.getD i 0 * 2 ^ (45 - 3 * planePos i)).sum

/-- The least of the values, 0 for none. -/
def leastOf : List Nat → Nat
  | [] => 0
  | v :: vs => vs.foldl min v

/-- The greatest of the values, 0 for none. -/
def greatestOf (vs : List Nat) : Nat := vs.foldl max 0

/-- The multiplier of the candidate of table `t` (spec R239). -/
def eacMul (vs : List Nat) (t : Nat) : Nat :=
  max 1 (min 15 ((greatestOf vs - leastOf vs + eacSpan t / 2) / eacSpan t))

/-- The base of the candidate of table `t` (spec R239). -/
def eacBase (vs : List Nat) (t : Nat) : Nat := clamp255 (((leastOf vs + greatestOf vs + eacMul vs t) / 2 : Nat) : Int)

/-- The error of index `k` for the value `v` (spec R239). -/
def eacErr (base mul tab v k : Nat) : Nat := sqDiff (eac8Value base mul tab k) v

/-- The index of the value `v`, the first of the least error (spec R239). -/
def eacBestIdx (base mul tab v : Nat) : Nat := leastBelow 8 (eacErr base mul tab v)

/-- `err[t]` (spec R239). -/
def eacTableErr (vs : List Nat) (t : Nat) : Nat :=
  let mul := eacMul vs t
  let base := eacBase vs t
  (vs.map fun v => eacErr base mul t v (eacBestIdx base mul t v)).sum

/-- `enc_eac(v)`, the reference function (spec R239). -/
def refEncEac (vs : List Nat) : Half :=
  if solid vs then halfOfWord (eacWord (vs.getD 0 0) 0 0 [])
  else
    let t := leastBelow 16 (eacTableErr vs)
    let mul := eacMul vs t
    let base := eacBase vs t
    halfOfWord (eacWord base mul t (vs.map (eacBestIdx base mul t)))

end Sys2Proof.Machine
end

