-- ==== Sys2Proof/Machine/SearchBc.lean ====
section
/-! DEFINITION. The reference encoders of BC1 and BC4 blocks (46_encoders_bc.md, R260 to R267). -/

namespace Sys2Proof.Machine

/-- A dithered pixel (spec R260). -/
def ditherPixel (i : Nat) (c : Colour) : Colour :=
  [ clamp255 ((chan c 0 : Int) + bayer31 i), clamp255 ((chan c 1 : Int) + bayer63 i),
    clamp255 ((chan c 2 : Int) + bayer31 i) ]

/-- `dither(p)`; alpha is not part of the colours and is not dithered (spec R260). -/
def dither (p : List Colour) : List Colour := (List.range 16).map fun i => ditherPixel i (pixelAt p i)

/-- `q565(c)` (spec R262). -/
def q565 (c : Colour) : Nat := quant 5 (chan c 0) * 2 ^ 11 + quant 6 (chan c 1) * 2 ^ 5 + quant 5 (chan c 2)

/-- The values of one channel of a tile. -/
def chanValues (p : List Colour) (ch : Nat) : List Nat := p.map fun c => chan c ch

/-- The candidate endpoint pairs `K0`, `K1`, `K2` (spec R263). -/
def bc1Cands (p : List Colour) : List (Colour × Colour) :=
  [ ([0, 1, 2].map fun ch => greatestOf (chanValues p ch), [0, 1, 2].map fun ch => leastOf (chanValues p ch)),
    (subAvg p 0 0, subAvg p 0 1),
    (subAvg p 1 0, subAvg p 1 1) ]

/-- An evaluated candidate: its error, the stored endpoints and the selectors (spec R264). -/
structure Bc1Trial where
  err : Nat
  c0 : Nat
  c1 : Nat
  sel : List Nat
  deriving DecidableEq, Repr, Inhabited

/-- The R, G, B of the four-colour palette of two endpoints with `c0 > c1` (spec R264, R141). -/
def bc1Colours (c0 c1 : Nat) : List Colour := (bc1Palette .opaqueBlack c0 c1 false).map fun q => [q.r, q.g, q.b]

/-- Evaluating a candidate (spec R264). -/
def bc1Trial (p : List Colour) (k : Colour × Colour) : Bc1Trial :=
  let a := q565 k.1
  let b := q565 k.2
  if a = b then
    ⟨(p.map fun c => sqErr (expand565 a) c).sum, a, a, p.map fun _ => 0⟩
  else
    let pal := bc1Colours (max a b) (min a b)
    ⟨paintErr pal p, max a b, min a b, paintSels pal p⟩

/-- `pack_bc1(c0, c1, sel)` (spec R265, R140). -/
def packBc1 (c0 c1 : Nat) (sel : List Nat) : Half :=
  BitVec.ofNat 64 (packFields ([(c0, 16), (c1, 16)] ++ (List.range 16).map fun i => (sel.getD i 0, 2)))

/-- `enc_bc1_colour(p, dith)`, the reference function (spec R265). -/
def refEncBc1 (tile : List Colour) (dith : Bool) : Half :=
  let p := if dith then dither tile else tile
  if solid p then packBc1 (q565 (pixelAt p 0)) (q565 (pixelAt p 0)) []
  else
    let best := leastBy Bc1Trial.err default ((bc1Cands p).map (bc1Trial p))
    packBc1 best.c0 best.c1 best.sel

/-- `pack_bc4(e0, e1, idx)` (spec R267, R142). -/
def packBc4 (e0 e1 : Nat) (idx : List Nat) : Half :=
  BitVec.ofNat 64 (packFields ([(e0, 8), (e1, 8)] ++ (List.range 16).map fun i => (idx.getD i 0, 3)))

/-- The index of a value under a BC4 palette (spec R267). -/
def bc4BestIdx (pal : List Nat) (v : Nat) : Nat := leastBelow 8 fun k => absDiff (pal.getD k 0) v

/-- `enc_bc4(v)`, the reference function (spec R267). -/
def refEncBc4 (vs : List Nat) : Half :=
  if solid vs then packBc4 (vs.getD 0 0) (vs.getD 0 0) []
  else
    let e0 := greatestOf vs
    let e1 := leastOf vs
    packBc4 e0 e1 (vs.map (bc4BestIdx (bc4Palette e0 e1)))

end Sys2Proof.Machine
end

