-- ==== Sys2Proof/Machine/SearchBc7.lean ====
section
/-! DEFINITION. The BC7 encoder (47_encoder_bc7.md): the reference search (R295, R296, R300 to R307), canonicalisation
(R297) and packing (R298). -/

namespace Sys2Proof.Machine

/-- `quantp_n(v, P)` (spec R301). -/
def quantP (n v p : Nat) : Nat := leastBelow (2 ^ n) fun q => absDiff (expand (n + 1) (2 * q + p)) v

/-- The colour of a corner quantised with p-bit `p` (spec R301). -/
def cornerFields (n : Nat) (v : Colour) (p : Nat) : Colour := v.map fun c => quantP n c p

/-- The error of a corner quantised with p-bit `p` (spec R301). -/
def cornerErr (n : Nat) (v : Colour) (p : Nat) : Nat :=
  sqErr ((cornerFields n v p).map fun q => expand (n + 1) (2 * q + p)) v

/-- How a mode quantises the corners: without p-bit, with one the two endpoints share, or with one each (spec R301). -/
inductive PbitKind where
  | none | shared | perEndpoint
  deriving DecidableEq, Repr

/-- Two endpoints of a subset as fields, and their p-bits in order (spec R301). -/
structure Ends where
  lo : Colour
  hi : Colour
  pb : List Nat
  deriving DecidableEq, Repr, Inhabited

/-- Quantising the corners (spec R301). -/
def quantCorners (kind : PbitKind) (n : Nat) (lo hi : Colour) : Ends :=
  match kind with
  | .none => ⟨lo.map (quant n), hi.map (quant n), []⟩
  | .shared =>
    let p := leastBelow 2 fun p => cornerErr n lo p + cornerErr n hi p
    ⟨cornerFields n lo p, cornerFields n hi p, [p]⟩
  | .perEndpoint =>
    let pl := leastBelow 2 (cornerErr n lo)
    let ph := leastBelow 2 (cornerErr n hi)
    ⟨cornerFields n lo pl, cornerFields n hi ph, [pl, ph]⟩

/-- Degenerate-endpoint correction of one channel: the two fields (spec R302). -/
def nudge (n qlo qhi lo hi : Nat) : Nat × Nat :=
  if qlo = qhi ∧ lo ≠ hi then if qlo > (2 ^ n - 1) / 2 then (qlo - 1, qhi) else (qlo, qhi + 1)
  else (qlo, qhi)

/-- Degenerate-endpoint correction of a subset, channel by channel (spec R302). -/
def nudgeEnds (n : Nat) (lo hi : Colour) (e : Ends) : Ends :=
  let fixed := fun ch : Nat => nudge n (chan e.lo ch) (chan e.hi ch) (chan lo ch) (chan hi ch)
  { e with
    lo := (List.range lo.length).map fun ch => (fixed ch).1
    hi := (List.range lo.length).map fun ch => (fixed ch).2 }

/-- The corners of the bounding box of a subset (spec R300). -/
def boxLo (nch : Nat) (x : List Colour) : Colour :=
  (List.range nch).map fun ch => leastOf (x.map fun c => chan c ch)

/-- The corners of the bounding box of a subset (spec R300). -/
def boxHi (nch : Nat) (x : List Colour) : Colour :=
  (List.range nch).map fun ch => greatestOf (x.map fun c => chan c ch)

/-- The endpoints of a subset that the tables do not serve (spec R300, R301, R302). -/
def boxEnds (kind : PbitKind) (n nch : Nat) (x : List Colour) : Ends :=
  nudgeEnds n (boxLo nch x) (boxHi nch x) (quantCorners kind n (boxLo nch x) (boxHi nch x))

/-- The p-bit of the low (`e = 0`) or high (`e = 1`) endpoint of a subset (spec R148, R301). -/
def endPbit (kind : PbitKind) (pb : List Nat) (e : Nat) : Option Nat :=
  match kind with
  | .none => Option.none
  | .shared => some (pb.getD 0 0)
  | .perEndpoint => some (pb.getD e 0)

/-- The palette of a subset with selectors of `ib` bits (spec R303). -/
def subsetPalette (kind : PbitKind) (n ib : Nat) (e : Ends) : List Colour :=
  let e0 := e.lo.map (reconstruct n (endPbit kind e.pb 0))
  let e1 := e.hi.map (reconstruct n (endPbit kind e.pb 1))
  (weights ib).map fun w => List.zipWith (fun a b => interp a b w) e0 e1

/-- The selector of a pixel, the first of the least error (spec R303). -/
def paletteSel (pal : List Colour) (c : Colour) : Nat := leastBelow pal.length fun k => sqErr (pal.getD k []) c

/-- A subset's part of a trial: endpoints, a selector for each of its pixels in ascending order, and the error. -/
structure SubsetFit where
  ends : Ends
  sel : List Nat
  err : Nat
  deriving DecidableEq, Repr, Inhabited

/-- Palette, selectors and error of a subset (spec R303). -/
def boxFit (kind : PbitKind) (n nch ib : Nat) (x : List Colour) : SubsetFit :=
  let e := boxEnds kind n nch x
  let pal := subsetPalette kind n ib e
  ⟨e, x.map (paletteSel pal), (x.map fun c => sqErr (pal.getD (paletteSel pal c) []) c).sum⟩

/-- A uniform subset of mode 1, served by `OPT1` (spec R295). -/
def uniformFit1 (opt1 : Opt1) (x : List Colour) : SubsetFit :=
  let c := x.headD []
  let e := fun p : Nat => x.length * (c.map fun v => (opt1At opt1 v p).err).sum
  let p := leastBelow 2 e
  ⟨⟨c.map fun v => (opt1At opt1 v p).lo, c.map fun v => (opt1At opt1 v p).hi, [p]⟩, x.map fun _ => 2, e p⟩

/-- A uniform subset of mode 7, served by `OPT7`; the p-bit pairs `(LP, HP)` in the order LP outer, HP inner
(spec R295). -/
def uniformFit7 (opt7 : Opt7) (x : List Colour) : SubsetFit :=
  let c := x.headD []
  let e := fun lh : Nat × Nat => x.length * (c.map fun v => (opt7At opt7 v lh.2 lh.1).err).sum
  let lh := leastBy e (0, 0) [(0, 0), (0, 1), (1, 0), (1, 1)]
  ⟨⟨c.map fun v => (opt7At opt7 v lh.2 lh.1).lo, c.map fun v => (opt7At opt7 v lh.2 lh.1).hi, [lh.1, lh.2]⟩,
    x.map fun _ => 1, e lh⟩

/-- The pixels of subset `s` of a two-subset partition, ascending (spec R305). -/
def partPixels (part s : Nat) : List Nat := (List.range 16).filter fun i => part2 part i == s

/-- The position of pixel `i` among the pixels of its subset. -/
def rankInSubset (part i : Nat) : Nat := ((List.range i).filter fun j => part2 part j == part2 part i).length

/-- The two subset fits of a partition, given how one subset is fitted (spec R305, R307). -/
def partFits (fit : List Colour → SubsetFit) (p : List Colour) (part : Nat) : SubsetFit × SubsetFit :=
  (fit ((partPixels part 0).map (pixelAt p)), fit ((partPixels part 1).map (pixelAt p)))

/-- `tot(π)` (spec R305). -/
def partErr (fit : List Colour → SubsetFit) (p : List Colour) (part : Nat) : Nat :=
  (partFits fit p part).1.err + (partFits fit p part).2.err

/-- A colour as an endpoint field record: a missing alpha is 0 (spec R147). -/
def qOf (c : Colour) : Colour := [chan c 0, chan c 1, chan c 2, chan c 3]

/-- The trial of a two-subset mode: the first partition of the least error (spec R305, R307). -/
def twoSubsetTrial (mode maxPart : Nat) (fit : List Colour → SubsetFit) (p : List Colour) : Nat × Choice :=
  let part := leastBelow maxPart (partErr fit p)
  let f := partFits fit p part
  ( f.1.err + f.2.err,
    { mode := mode, part := part,
      q := [qOf f.1.ends.lo, qOf f.1.ends.hi, qOf f.2.ends.lo, qOf f.2.ends.hi],
      pb := f.1.ends.pb ++ f.2.ends.pb,
      sel1 := (List.range 16).map fun i =>
        (if part2 part i = 0 then f.1.sel else f.2.sel).getD (rankInSubset part i) 0,
      sel2 := [] } )

/-- How mode 1 fits one subset (spec R305). -/
def fit1 (opt1 : Opt1) (x : List Colour) : SubsetFit := if solid x then uniformFit1 opt1 x else boxFit .shared 6 3 3 x

/-- How mode 7 fits one subset (spec R307). -/
def fit7 (opt7 : Opt7) (x : List Colour) : SubsetFit :=
  if solid x then uniformFit7 opt7 x else boxFit .perEndpoint 5 4 2 x

/-- The mode 6 trial (spec R304). -/
def trial6 (px : List Px) : Nat × Choice :=
  let f := boxFit .perEndpoint 7 4 4 (px.map rgbaOf)
  (f.err, { mode := 6, part := 0, q := [qOf f.ends.lo, qOf f.ends.hi], pb := f.ends.pb, sel1 := f.sel, sel2 := [] })

/-- The mode 1 trial (spec R305). -/
def trial1 (opt1 : Opt1) (maxPart : Nat) (px : List Px) : Nat × Choice :=
  twoSubsetTrial 1 maxPart (fit1 opt1) (px.map rgbOf)

/-- The alpha palette of mode 5 (spec R306). -/
def alphaPalette (vs : List Nat) : List Nat := (weights 2).map fun w => interp (leastOf vs) (greatestOf vs) w

/-- The alpha selector of a value in mode 5 (spec R306). -/
def alphaSel (pal : List Nat) (v : Nat) : Nat := leastBelow 4 fun k => sqDiff (pal.getD k 0) v

/-- The mode 5 trial (spec R306). -/
def trial5 (px : List Px) : Nat × Choice :=
  let f := boxFit .none 7 3 2 (px.map rgbOf)
  let as := px.map Px.a
  let pal := alphaPalette as
  let q := fun (c : Colour) (a : Nat) => [chan c 0, chan c 1, chan c 2, a]
  ( f.err + (as.map fun v => sqDiff (pal.getD (alphaSel pal v) 0) v).sum,
    { mode := 5, part := 0, q := [q f.ends.lo (leastOf as), q f.ends.hi (greatestOf as)], pb := [],
      sel1 := f.sel, sel2 := as.map (alphaSel pal) } )

/-- The mode 7 trial (spec R307). -/
def trial7 (opt7 : Opt7) (maxPart : Nat) (px : List Px) : Nat × Choice :=
  twoSubsetTrial 7 maxPart (fit7 opt7) (px.map rgbaOf)

/-- A tile is opaque (spec R291). -/
def opaqueTile (px : List Px) : Bool := px.all fun p => p.a == 255

/-- The trials in the order they are compared (spec R296, R291). -/
def bc7Trials (args : SearchArgs) : List (Nat × (Nat × Choice)) :=
  (args.w6, trial6 args.pixels) ::
    (if opaqueTile args.pixels then [(args.w1, trial1 args.opt1 args.maxPart args.pixels)]
     else [(args.w5, trial5 args.pixels), (args.w7, trial7 args.opt7 args.maxPart args.pixels)])

/-- The weighted error `err_m * W_m` (spec R294). -/
def weightedErr (t : Nat × (Nat × Choice)) : Nat := t.2.1 * t.1

/-- The reference instance of `BC7_SEARCH`; `BC7_PRUNE` and `BC7_EFFORT` have no effect on it (spec R293, R296). -/
def refBc7Search (args : SearchArgs) : Choice := (leastBy weightedErr default (bc7Trials args)).2.2

/-- Two endpoint records with their R, G, B exchanged, alpha kept (spec R297, mode 5). -/
def swapRgb (q : List Colour) : List Colour :=
  let a := q.getD 0 []
  let b := q.getD 1 []
  [[chan b 0, chan b 1, chan b 2, chan a 3], [chan a 0, chan a 1, chan a 2, chan b 3]]

/-- Two endpoint records with their alpha exchanged (spec R297, mode 5). -/
def swapAlpha (q : List Colour) : List Colour :=
  let a := q.getD 0 []
  let b := q.getD 1 []
  [[chan a 0, chan a 1, chan a 2, chan b 3], [chan b 0, chan b 1, chan b 2, chan a 3]]

/-- A list with entries `2s` and `2s+1` exchanged (spec R297). -/
def swapPair {α : Type} (s : Nat) (l : List α) : List α :=
  match l[2 * s]?, l[2 * s + 1]? with
  | some x, some y => (l.set (2 * s) y).set (2 * s + 1) x
  | _, _ => l

/-- The primary selectors with those of subset `s` inverted (spec R297). -/
def flipSubset (m : Bc7ModeRow) (part s : Nat) (sel : List Nat) : List Nat :=
  (List.range 16).map fun i =>
    if subset m.ns part i = s then 2 ^ m.ib - 1 - sel.getD i 0 else sel.getD i 0

/-- Canonicalisation of one subset's primary selectors (spec R297). -/
def canonSubset (c : Choice) (s : Nat) : Choice :=
  let m := bc7Mode c.mode
  if c.sel1.getD (anchor m.ns c.part s) 0 ≥ 2 ^ (m.ib - 1) then
    { c with
      sel1 := flipSubset m c.part s c.sel1
      q := if c.mode = 5 then swapRgb c.q else swapPair s c.q
      pb := if m.epb = 1 then swapPair s c.pb else c.pb }
  else c

/-- Canonicalisation of mode 5's alpha selectors (spec R297). -/
def canonAlpha (c : Choice) : Choice :=
  if c.mode = 5 ∧ c.sel2.getD 0 0 ≥ 2 then
    { c with sel2 := c.sel2.map fun j => 3 - j, q := swapAlpha c.q }
  else c

/-- `canonicalise(choice)` (spec R297). -/
def canonicalise (c : Choice) : Choice :=
  canonAlpha ((List.range (bc7Mode c.mode).ns).foldl canonSubset c)

/-- The field values of a choice in the order of R147, rotation and index selection 0 (spec R298). -/
def choiceValues (c : Choice) : List Nat :=
  let m := bc7Mode c.mode
  let comp := fun ch : Nat => (List.range (2 * m.ns)).map fun e => chan (c.q.getD e []) ch
  [2 ^ c.mode, c.part, 0, 0] ++ (comp 0 ++ comp 1 ++ comp 2) ++ comp 3
    ++ ((List.range (pbitCount m)).map fun j => c.pb.getD j 0)
    ++ ((List.range 16).map fun i => c.sel1.getD i 0) ++ (List.range 16).map fun i => c.sel2.getD i 0

/-- `pack(choice)` (spec R298). -/
def packChoice (c : Choice) : Block :=
  BitVec.ofNat 128 (packFields ((choiceValues c).zip (bc7Widths c.mode c.part)))

end Sys2Proof.Machine
end

