-- ==== Sys2Proof/Machine/Contract.lean ====
section
/-! DEFINITION. The two layers of every encoder (R13, R220): the contract rules as checks on one result, and the
encoder functions of both values of `ENCODER_INSTANCE` and `BC7_SEARCH` (R5).

An abstract encoder is a free function of Config. Its result is taken where it meets the contract and the reference
block stands otherwise, so every function that meets the contract is one of the abstract encoders, and every
abstract encoder meets the contract (DESIGN CHOICE, log 10). -/

namespace Sys2Proof.Machine

/-- The tile of the source's scenario: two white rows over two black ones (spec R224). -/
def splitTile : List Colour := List.replicate 8 [255, 255, 255] ++ List.replicate 8 [0, 0, 0]

/-- In every column the decoded luma of row 0 exceeds that of row 3 (spec R224). -/
def topBrighter (decoded : List Px) : Bool :=
  let luma := fun i => lumaOf (rgbOf (decoded.getD i default))
  (List.range 4).all fun x => luma (12 + x) < luma x

/-- What the contract requires of an ETC1 block for a tile (spec R224, R178). DESIGN CHOICE (log 23): C1 and R221 ask
a "minimal-error representation" of a solid tile and state no measure of it; nothing is asked of such a tile here. -/
def etc1Contract (p : List Colour) (b : Half) : Bool :=
  validEtc1 b && (p != splitTile || topBrighter (etcDecode b))

/-- What the contract requires of an EAC block for sixteen values: a solid input round-trips exactly through both
8-bit readings (spec R238, R223). -/
def eacContract (vs : List Nat) (b : Half) : Bool := !solid vs || (eac8Decode b == vs && eac11View8 b == vs)

/-- The all-red tile of the source's scenario (spec R261). -/
def redTile : List Colour := List.replicate 16 [255, 0, 0]

/-- Sixteen pixels within 2 per channel of opaque red (spec R261). -/
def nearRed (px : List Px) : Bool :=
  px.all fun q => absDiff q.r 255 ≤ 2 && q.g ≤ 2 && q.b ≤ 2 && absDiff q.a 255 ≤ 2

/-- No pixel of the block is selector 3 of the three-colour mode, the one colour that can be transparent
(spec R141, R261, D27). -/
def neverThreeColourBlack (b : Half) : Bool :=
  bc1C0 b > bc1C1 b || (List.range 16).all fun i => bc1Sel b i != 3

/-- What the contract requires of the colour block of a BC1 encoder for a tile (spec R261): the block never uses
selector 3 of the three-colour mode, with or without dithering, and the all-red scenario holds for `DITHER = 0`.
The colour half of BC3, which is never read in the three-colour mode (R144), has no contract of its own. DESIGN CHOICE
(log 23): nothing is asked for the "minimal-error representation" of another solid tile (C1, R221). -/
def bc1Contract (idx3 : Idx3Alpha) (fmt : Fmt) (p : List Colour) (dith : Bool) (b : Half) : Bool :=
  fmt != .bc1 ||
    (neverThreeColourBlack b && (dith || p != redTile || nearRed (bc1Decode idx3 b false)))

/-- What the contract requires of a BC4 block for sixteen values (spec R266, R223). -/
def bc4Contract (vs : List Nat) (b : Half) : Bool := !solid vs || bc4Decode b == vs

/-- Every entry is below `2^n`. -/
def fitsBits (n : Nat) (vs : List Nat) : Bool := vs.all fun v => v < 2 ^ n

/-- An endpoint record has four components that fit a mode's fields (spec R292 (c)). -/
def endpointFits (m : Bc7ModeRow) (c : Colour) : Bool :=
  c.length == 4 && fitsBits m.cb (c.take 3) && fitsBits m.ab (c.drop 3)

/-- The properties (a) to (d) of a choice (spec R292). A list a mode has no use for is empty. DESIGN CHOICE (log 24):
the separation of endpoints that is the purpose of R302 is not asked of a free choice. -/
def choiceContract (px : List Px) (c : Choice) : Bool :=
  let m := bc7Mode c.mode
  (if opaqueTile px then c.mode == 6 || c.mode == 1 else c.mode == 6 || c.mode == 5 || c.mode == 7)
    && (if m.pb = 0 then c.part == 0 else decide (c.part < 64))
    && c.q.length == 2 * m.ns && c.q.all (endpointFits m)
    && c.pb.length == pbitCount m && fitsBits 1 c.pb
    && c.sel1.length == 16 && fitsBits m.ib c.sel1
    && c.sel2.length == (if m.ib2 = 0 then 0 else 16) && fitsBits m.ib2 c.sel2

/-- A free result where it meets the contract, else the reference result (log 10). -/
def freeOr {α : Type} (contract : α → Bool) (free reference : α) : α := if contract free then free else reference

/-- `enc_etc1` (spec R220, R224, R230). -/
def encEtc1 (k : EncoderKind) (p : List Colour) : Half :=
  match k with
  | .reference => refEncEtc1 p
  | .abstract => freeOr (etc1Contract p) (Config.freeEtc1 p) (refEncEtc1 p)

/-- `enc_etc2_rgb` of a format; with `ETC2_TH = 0` it is the block of `enc_etc1` (spec R220, R231, R236). With
`ETC2_TH = 1` every 8 bytes are allowed of an abstract encoder, for solid tiles too: DESIGN CHOICE (log 23). -/
def encEtc2Rgb (k : EncoderKind) (fmt : Fmt) (p : List Colour) (th : Bool) : Half :=
  match k with
  | .reference => refEncEtc2Rgb p th
  | .abstract => if th then Config.freeEtc2Rgb fmt p th else encEtc1 .abstract p

/-- `enc_eac` of a format (spec R220, R238, R239). -/
def encEac (k : EncoderKind) (fmt : Fmt) (vs : List Nat) : Half :=
  match k with
  | .reference => refEncEac vs
  | .abstract => freeOr (eacContract vs) (Config.freeEac fmt vs) (refEncEac vs)

/-- `enc_bc1_colour` of a format (spec R220, R261, R265). -/
def encBc1 (k : EncoderKind) (idx3 : Idx3Alpha) (fmt : Fmt) (p : List Colour) (dith : Bool) : Half :=
  match k with
  | .reference => refEncBc1 p dith
  | .abstract => freeOr (bc1Contract idx3 fmt p dith) (Config.freeBc1 fmt p dith) (refEncBc1 p dith)

/-- `enc_bc4` of a format (spec R220, R266, R267). -/
def encBc4 (k : EncoderKind) (fmt : Fmt) (vs : List Nat) : Half :=
  match k with
  | .reference => refEncBc4 vs
  | .abstract => freeOr (bc4Contract vs) (Config.freeBc4 fmt vs) (refEncBc4 vs)

/-- `BC7_SEARCH` (spec R292, R296). An abstract encoder instance has an uninterpreted search (R13). -/
def bc7Search (p : Params) (args : SearchArgs) : Choice :=
  match p.encoder, p.search with
  | .reference, .reference => refBc7Search args
  | _, _ => freeOr (choiceContract args.pixels) (Config.freeBc7Search args) (refBc7Search args)

/-- The block of `ENC.BC7` once the tables are ready: search, canonicalise, pack (spec R299). The correction of R302
is part of the reference search (`boxFit`); a free choice is not corrected after the search: DESIGN CHOICE (log 24). -/
def encBc7 (p : Params) (args : SearchArgs) : Block := packChoice (canonicalise (bc7Search p args))

end Sys2Proof.Machine
end

