-- ==== Sys2Proof/Machine/Encoders.lean ====
section
/-! DEFINITION. `INIT.BC7` and the block encoder commands (45, 46, 47). Every encoder writes the block its function
gives and sets `BITPOS`; only `ENC.BC7` can fault (R220). -/

namespace Sys2Proof.Machine

/-- `INIT.BC7`, one atomic step; only the first execution has an effect (spec R290, R61). -/
def execInitBc7 (s : State) : Host.Outcome State Fault Refusal :=
  runCommand s fun _ =>
    if s.bc7Ready then s else { s with opt1 := opt1Table, opt7 := opt7Table, bc7Ready := true }

/-- `ENC.ETC1` (spec R230, R220). -/
def execEncEtc1 (s : State) : Host.Outcome State Fault Refusal :=
  runCommand s fun l => putLane s (laneWithHalf l (encEtc1 s.params.encoder (tileRgb l.tile)))

/-- `ENC.ETC2_RGB` (spec R237). -/
def execEncEtc2Rgb (s : State) : Host.Outcome State Fault Refusal :=
  runCommand s fun l =>
    putLane s (laneWithHalf l (encEtc2Rgb s.params.encoder .etc2Rgb (tileRgb l.tile) (ctrlEtc2Th l.ctrl)))

/-- `ENC.ETC2_RGBA`: alpha half first (spec R241, R183). -/
def execEncEtc2Rgba (s : State) : Host.Outcome State Fault Refusal :=
  runCommand s fun l =>
    putLane s (laneWithBlock l (blockOf (encEac s.params.encoder .etc2Rgba (tileA l.tile))
      (encEtc2Rgb s.params.encoder .etc2Rgba (tileRgb l.tile) (ctrlEtc2Th l.ctrl))))

/-- `ENC.ETC2_R11` (spec R242). -/
def execEncEtc2R11 (s : State) : Host.Outcome State Fault Refusal :=
  runCommand s fun l => putLane s (laneWithHalf l (encEac s.params.encoder .etc2R11 (tileR l.tile)))

/-- `ENC.ETC2_RG11`: R first (spec R243, R184). -/
def execEncEtc2Rg11 (s : State) : Host.Outcome State Fault Refusal :=
  runCommand s fun l =>
    putLane s (laneWithBlock l (blockOf (encEac s.params.encoder .etc2Rg11 (tileR l.tile))
      (encEac s.params.encoder .etc2Rg11 (tileG l.tile))))

/-- `ENC.BC1` (spec R265). -/
def execEncBc1 (s : State) : Host.Outcome State Fault Refusal :=
  runCommand s fun l =>
    putLane s (laneWithHalf l (encBc1 s.params.encoder s.params.idx3 .bc1 (tileRgb l.tile) (ctrlDither l.ctrl)))

/-- `ENC.BC3`: alpha half first, never dithered (spec R270, R144). -/
def execEncBc3 (s : State) : Host.Outcome State Fault Refusal :=
  runCommand s fun l =>
    putLane s (laneWithBlock l (blockOf (encBc4 s.params.encoder .bc3 (tileA l.tile))
      (encBc1 s.params.encoder s.params.idx3 .bc3 (tileRgb l.tile) (ctrlDither l.ctrl))))

/-- `ENC.BC4` (spec R269). -/
def execEncBc4 (s : State) : Host.Outcome State Fault Refusal :=
  runCommand s fun l => putLane s (laneWithHalf l (encBc4 s.params.encoder .bc4 (tileR l.tile)))

/-- `ENC.BC5`: R first (spec R271, R145). -/
def execEncBc5 (s : State) : Host.Outcome State Fault Refusal :=
  runCommand s fun l =>
    putLane s (laneWithBlock l (blockOf (encBc4 s.params.encoder .bc5 (tileR l.tile))
      (encBc4 s.params.encoder .bc5 (tileG l.tile))))

/-- What `ENC.BC7` hands to the search (spec R292, R299). -/
def searchArgs (s : State) (l : Lane) : SearchArgs :=
  { pixels := tilePixels l.tile, opt1 := s.opt1, opt7 := s.opt7, prune := ctrlPrune l.ctrl,
    effort := ctrlEffort l.ctrl, maxPart := ctrlMaxPart l.ctrl,
    w1 := l.w1.toNat, w5 := l.w5.toNat, w6 := l.w6.toNat, w7 := l.w7.toNat }

/-- `ENC.BC7`: the precondition is always checked, before anything else (spec R299, R346). -/
def execEncBc7 (s : State) : Host.Outcome State Fault Refusal :=
  runCommand s fun l =>
    if s.bc7Ready then putLane s (laneWithBlock l (encBc7 s.params (searchArgs s l)))
    else raiseFault s l .bc7Uninit

end Sys2Proof.Machine
end

