-- ==== Sys2Proof/Machine/Dispatch.lean ====
section
/-! DEFINITION. What every command does: one arm per constructor (R71, R330, R332). -/

namespace Sys2Proof.Machine

/-- The meaning of a command executed on the lane `cur` (spec R330). -/
def exec (i : Instr) (s : State) : Host.Outcome State Fault Refusal :=
  match i with
  | .nop => Sys2Proof.Machine.execNop s
  | .clrblk => Sys2Proof.Machine.execClrblk s
  | .setbits width => Sys2Proof.Machine.execSetbits width s
  | .getbits width => Sys2Proof.Machine.execGetbits width s
  | .chksize bits => Sys2Proof.Machine.execChksize bits s
  | .fixboEtc => Sys2Proof.Machine.execFixboEtc s
  | .bswap64 => Sys2Proof.Machine.execBswap64 s
  | .initBc7 => Sys2Proof.Machine.execInitBc7 s
  | .encEtc1 => Sys2Proof.Machine.execEncEtc1 s
  | .encEtc2Rgb => Sys2Proof.Machine.execEncEtc2Rgb s
  | .encEtc2Rgba => Sys2Proof.Machine.execEncEtc2Rgba s
  | .encEtc2R11 => Sys2Proof.Machine.execEncEtc2R11 s
  | .encEtc2Rg11 => Sys2Proof.Machine.execEncEtc2Rg11 s
  | .encBc1 => Sys2Proof.Machine.execEncBc1 s
  | .encBc3 => Sys2Proof.Machine.execEncBc3 s
  | .encBc4 => Sys2Proof.Machine.execEncBc4 s
  | .encBc5 => Sys2Proof.Machine.execEncBc5 s
  | .encBc7 => Sys2Proof.Machine.execEncBc7 s
  | .decBc1 => Sys2Proof.Machine.execDecBc1 s
  | .decBc3 => Sys2Proof.Machine.execDecBc3 s
  | .decBc4 => Sys2Proof.Machine.execDecBc4 s
  | .decBc5 => Sys2Proof.Machine.execDecBc5 s
  | .decBc7 => Sys2Proof.Machine.execDecBc7 s

end Sys2Proof.Machine
end

