-- ==== Sys2Proof/Machine/Step.lean ====
section
/-! DEFINITION. One step: one input of the machine is served (R58, R383). -/

namespace Sys2Proof.Machine

/-- A word written to `CMD` is decoded and executed on lane `cur`; a word that is no command is `ILLEGAL_CMD`
(spec R330). -/
def issue (w : CmdWord) (s : State) : Host.Outcome State Fault Refusal :=
  match decode w with
  | .ok i => exec i s
  | .error _ => illegalCommand s

/-- One step of the machine (spec R14, R58, R330; log 1, 13). -/
def step (s : State) : Host.Outcome State Fault Refusal :=
  match takeInput s with
  | .command w s' => issue w s'
  | .done outcome => outcome

/-- The state in which the next input is the host's write, to the `CMD` of lane `cur`, of the word whose low
`nbits` bits are `w` and whose other bits are 0 (spec R70, R76; log 2). -/
def State.withFetchWord (s : State) (nbits w : Nat) : State :=
  { s with pending := commandTxn s.params s.cur (BitVec.ofNat 32 (w % 2 ^ nbits)) :: s.pending }

end Sys2Proof.Machine
end

