-- ==== Sys2Proof/Machine/Script.lean ====
section
/-! DEFINITION. The host's side as lists of inputs: the script lines and pseudo-instructions of R76 and R77, and the
numbers of the formats (R2, R72, R78). Lists of these are what `pending` holds; no rule of the unit reads them. -/

namespace Sys2Proof.Machine

/-- The FMT id of a format (spec R2, R72). -/
def fmtId : Fmt → Nat
  | .etc1 => 0
  | .etc2Rgb => 1
  | .etc2Rgba => 2
  | .etc2R11 => 3
  | .etc2Rg11 => 4
  | .bc1 => 5
  | .bc3 => 6
  | .bc4 => 7
  | .bc5 => 8
  | .bc7 => 9

/-- `BLOCK_BITS(fmt)` (spec R2, R78). -/
def blockBits : Fmt → Nat
  | .etc1 => 64
  | .etc2Rgb => 64
  | .etc2Rgba => 128
  | .etc2R11 => 64
  | .etc2Rg11 => 128
  | .bc1 => 64
  | .bc3 => 128
  | .bc4 => 64
  | .bc5 => 128
  | .bc7 => 128

/-- `ENC.fmt` (spec R71). -/
def encInstr : Fmt → Instr
  | .etc1 => .encEtc1
  | .etc2Rgb => .encEtc2Rgb
  | .etc2Rgba => .encEtc2Rgba
  | .etc2R11 => .encEtc2R11
  | .etc2Rg11 => .encEtc2Rg11
  | .bc1 => .encBc1
  | .bc3 => .encBc3
  | .bc4 => .encBc4
  | .bc5 => .encBc5
  | .bc7 => .encBc7

/-- `DEC.fmt`; the ETC formats have none (spec R71, R75). -/
def decInstr : Fmt → Option Instr
  | .bc1 => some .decBc1
  | .bc3 => some .decBc3
  | .bc4 => some .decBc4
  | .bc5 => some .decBc5
  | .bc7 => some .decBc7
  | .etc1 => none
  | .etc2Rgb => none
  | .etc2Rgba => none
  | .etc2R11 => none
  | .etc2Rg11 => none

/-- `WRn off, v` with `n = 8*size` (spec R76). -/
def hostWrite (p : Params) (lane off size : Nat) (v : BitVec 64) : Txn := .write (busAddr p lane off) size v

/-- `RDn off` with `n = 8*size` (spec R76). -/
def hostRead (p : Params) (lane off size : Nat) : Txn := .read (busAddr p lane off) size

/-- A mnemonic line: the command is issued (spec R76). -/
def hostCommand (p : Params) (lane : Nat) (i : Instr) : Txn := commandTxn p lane (encode i)

/-- A pixel as the word `R + G*2^8 + B*2^16 + A*2^24` (spec R52, R77). -/
def pixelWord (q : Px) : BitVec 64 := BitVec.ofNat 64 (q.r + q.g * 2 ^ 8 + q.b * 2 ^ 16 + q.a * 2 ^ 24)

/-- `LDTILE` (spec R77). -/
def loadTile (p : Params) (lane : Nat) (px : List Px) : List Txn :=
  (List.range 16).map fun i => hostWrite p lane (4 * i) 4 (pixelWord (px.getD i default))

/-- `LDBLK` of 8 bytes (spec R77). -/
def loadHalf (p : Params) (lane : Nat) (h : Half) : List Txn := [hostWrite p lane 0x40 8 h]

/-- `LDBLK` of 16 bytes (spec R77). -/
def loadBlock (p : Params) (lane : Nat) (b : Block) : List Txn :=
  [hostWrite p lane 0x40 8 (lowHalf b), hostWrite p lane 0x48 8 (highHalf b)]

/-- `PUT value, width` (spec R77). -/
def putBits (p : Params) (lane : Nat) (v : BitVec 64) (width : Nat) : List Txn :=
  [hostWrite p lane 0x50 8 v, hostCommand p lane (.setbits width)]

/-- `GET width` (spec R77). -/
def getBits (p : Params) (lane width : Nat) : List Txn :=
  [hostCommand p lane (.getbits width), hostRead p lane 0x58 8]

/-- `SEEK n` (spec R77). -/
def seekBits (p : Params) (lane n : Nat) : List Txn := [hostWrite p lane 0x60 4 (BitVec.ofNat 64 n)]

/-- The reads that fetch a block of a format (spec R77). -/
def readBlock (p : Params) (lane : Nat) (f : Fmt) : List Txn :=
  if blockBits f = 64 then [hostRead p lane 0x40 8] else [hostRead p lane 0x40 8, hostRead p lane 0x48 8]

/-- `encodeBlock(fmt, tile)` (spec R77). -/
def encodeBlock (p : Params) (lane : Nat) (f : Fmt) (px : List Px) : List Txn :=
  loadTile p lane px ++ [hostCommand p lane (encInstr f)] ++ readBlock p lane f

/-- `decodeBlock(fmt, bytes)`, BC formats only; of a 64-bit format the first half counts (spec R77). -/
def decodeBlock (p : Params) (lane : Nat) (f : Fmt) (b : Block) : Option (List Txn) :=
  (decInstr f).map fun i =>
    (if blockBits f = 64 then loadHalf p lane (lowHalf b) else loadBlock p lane b)
      ++ [hostCommand p lane i] ++ (List.range 16).map fun k => hostRead p lane (4 * k) 4

end Sys2Proof.Machine
end

