-- ==== Sys2Proof/Safety.lean ====
section
/-! DEFINITION. The terms claims are stated in: a running lane, the invariant of the machine, legal accesses and words
spelled out, and what a BC7 choice stands for. -/

namespace Sys2Proof.Machine

/-- Lane `l` is the one a command executes on, and it is running: not halted by a fault (spec R350, R330). -/
def Running (s : State) (l : Lane) : Prop := curLane s = some l ∧ l.fault = false

/-- What every lane the unit can reach satisfies: `BITPOS` is legal (spec R25), `CTRL` holds only legal fields (spec
R26), `CAUSE` is 0 on a running lane and one of the codes 1 to 4 on a halted one (spec R27, R341). -/
def LaneInv (l : Lane) : Prop :=
  l.bitpos.toNat ≤ 128 ∧ legalCtrl l.ctrl = l.ctrl ∧
    (l.fault = false → l.cause = 0#4) ∧ (l.fault = true → 1 ≤ l.cause.toNat ∧ l.cause.toNat ≤ 4)

/-- The tables hold their defined contents once `BC7_READY` is 1 (spec R27, R31, R123). -/
def TablesInv (s : State) : Prop := s.bc7Ready = true → s.opt1 = opt1Table ∧ s.opt7 = opt7Table

/-- The invariant of the machine: the lane last accessed exists (so there is at least one lane, R5), every lane
is as `LaneInv` says, and the tables are as `TablesInv` says. -/
def Inv (s : State) : Prop := s.cur < s.lanes.length ∧ (∀ l ∈ s.lanes, LaneInv l) ∧ TablesInv s

/-- The input's address lies in some lane's window; the reset input has no address (spec R38, R50). -/
def Addressed (s : State) : Txn → Prop
  | .reset => True
  | .read addr _ => (locate s.params s.lanes.length addr).isSome
  | .write addr _ _ => (locate s.params s.lanes.length addr).isSome

/-- A safe state: its next input, if there is one, is addressed to the unit. A safe state's step is a next state. -/
def SafeState (s : State) : Prop := ∀ t rest, s.pending = t :: rest → Addressed s t

/-- Two lanes hold the same registers but for `BLK` and `BITPOS`, what an encoder writes (spec R220). -/
def SameButBlock (l l' : Lane) : Prop := l' = { l with blk := l'.blk, bitpos := l'.bitpos }

/-- Two lanes hold the same registers but for `TILE` and `BITPOS`, what a decoder writes (spec R200). -/
def SameButTile (l l' : Lane) : Prop := l' = { l with tile := l'.tile, bitpos := l'.bitpos }

/-- Byte `off` of a lane's window as a host read shows it (spec R51, R52): the model's read of one byte. -/
def windowByte (ready : Bool) (l : Lane) (off : Nat) : Byte :=
  match windowMap.find? fun r => decide (r.start ≤ off ∧ off < r.start + r.bytes) with
  | some r => regByte ready l r.reg (off - r.start)
  | none => 0#8

/-- The offsets of the 32-bit registers, `BITPOS` to `ID` (spec R51). -/
def wordOffsets : List Nat := [0x60, 0x64, 0x68, 0x6C, 0x70, 0x74, 0x78, 0x7C, 0x80]

/-- A legal access, spelled out: aligned, and of size 1, 2, 4 or 8 inside `TILE`, `BLK`, `ARG`, `RES` or the reserved
range, or of size 4 on a 32-bit register (spec R51, R54). -/
def LegalAccess (off size : Nat) : Prop :=
  (size = 1 ∨ size = 2 ∨ size = 4 ∨ size = 8) ∧ off % size = 0 ∧
    (off + size ≤ 0x40 ∨ (0x40 ≤ off ∧ off + size ≤ 0x50) ∨ (0x50 ≤ off ∧ off + size ≤ 0x58) ∨
      (0x58 ≤ off ∧ off + size ≤ 0x60) ∨ (0x84 ≤ off ∧ off + size ≤ 0x100) ∨ (size = 4 ∧ off ∈ wordOffsets))

/-- A legal command word, spelled out by its fields (spec R71, R74, R75). -/
def LegalWord (w : CmdWord) : Prop :=
  w.toNat / 65536 = 0 ∧
    (w.toNat % 256 ∈ [0x02, 0x03, 0x04] ∨
      (w.toNat / 256 % 256 = 0 ∧
        w.toNat % 256 ∈ [0x00, 0x01, 0x05, 0x06, 0x08, 0x10, 0x11, 0x12, 0x13, 0x14, 0x15, 0x16, 0x17, 0x18, 0x19,
          0x25, 0x26, 0x27, 0x28, 0x29]))

/-- The fields a choice stands for: rotation and index selection are 0 (spec R292, R298). -/
def choiceFields (c : Choice) : Bc7Fields :=
  { mode := c.mode, part := c.part, rot := 0, isb := 0, q := c.q, pb := c.pb, sel1 := c.sel1, sel2 := c.sel2 }

/-- The pixels a choice stands for: interpolation of its own endpoints by its own selectors (spec R206). -/
def choicePixels (c : Choice) : List Px := (List.range 16).map (bc7Pixel (choiceFields c))

/-- Every anchor selector of a choice has its top bit clear (spec R149, R297). -/
def AnchorsClear (c : Choice) : Prop :=
  (∀ i < 16, isAnchor (bc7Mode c.mode).ns c.part i = true → c.sel1.getD i 0 < 2 ^ ((bc7Mode c.mode).ib - 1)) ∧
    ((bc7Mode c.mode).ib2 ≠ 0 → c.sel2.getD 0 0 < 2 ^ ((bc7Mode c.mode).ib2 - 1))

end Sys2Proof.Machine
end

