-- ==== Sys2Proof/Certificates/Slice0/Obligations.lean ====
section
/-! DEFINITION. The statements for the provers. In all of them exec acts on the lane cur of the state, and Running s l
says that this lane is l and is not halted. An equation with putLane s { l with … } is a frame: nothing else of the
state changes. -/

open Sys2Proof Sys2Proof.Machine

/-- After reset every lane and the shared bit hold the values of R37 (R37). -/
def Obligations.ResetValues : Prop :=
  ∀ (n : Nat) (p : Params),
    (State.resetWith n p).lanes.length = n ∧ (State.resetWith n p).bc7Ready = false ∧
    Config.idValue = 0x42435531#32 ∧
    ∀ l ∈ (State.resetWith n p).lanes,
      (∀ k < 64, tileByte l.tile k = 0) ∧ (∀ k < 16, byteOf l.blk k = 0#8) ∧ l.arg = 0#64 ∧ l.res = 0#64 ∧
      l.bitpos = 0#8 ∧ l.ctrl = 0x00001002#32 ∧ ctrlDither l.ctrl = false ∧ ctrlEtc2Th l.ctrl = true ∧
      ctrlPrune l.ctrl = false ∧ ctrlEffort l.ctrl = 0 ∧ ctrlMaxPart l.ctrl = 64 ∧
      l.w1 = 1#16 ∧ l.w5 = 1#16 ∧ l.w6 = 1#16 ∧ l.w7 = 1#16 ∧ l.fault = false ∧ l.cause = 0#4 ∧
      statusWord (State.resetWith n p).bc7Ready l = 0#32

/-- The reset input puts every lane into the reset state, whatever came before (R370, R345). -/
def Obligations.ResetInputRestartsDevice : Prop :=
  ∀ (s : State) (rest : List Txn), s.pending = .reset :: rest →
    ∃ t, step s = .next t ∧ t.bc7Ready = false ∧ t.lanes.length = s.lanes.length ∧
      (∀ l ∈ t.lanes, l = Lane.reset) ∧ t.params = s.params ∧ t.pending = rest

/-- A step whose next input writes a command word to CMD of lane k runs the decoded command on lane k (R330, R70,
R76). -/
def Obligations.StepRunsDecodedCommand : Prop :=
  ∀ (s : State) (k : Nat) (w : CmdWord) (rest : List Txn),
    s.pending = commandTxn s.params k w :: rest → k < s.lanes.length →
    (∀ i, decode w = .ok i → step s = exec i { s with pending := rest, cur := k, response := .ack }) ∧
    (∀ r, decode w = .error r → step s = illegalCommand { s with pending := rest, cur := k, response := .ack })

/-- A few command words, written out from R70 and R71, decode to their commands (R70, R71, R73). -/
def Obligations.DecodeListedWords : Prop :=
  decode 0x00000000#32 = .ok .nop ∧ decode 0x00004002#32 = .ok (.setbits 64) ∧
    decode 0x00000603#32 = .ok (.getbits 6) ∧ decode 0x00008004#32 = .ok (.chksize 128) ∧
    decode 0x00000005#32 = .ok .fixboEtc ∧ decode 0x00000008#32 = .ok .initBc7 ∧
    decode 0x00000012#32 = .ok .encEtc2Rgba ∧ decode 0x00000019#32 = .ok .encBc7 ∧
    decode 0x00000029#32 = .ok .decBc7 ∧ decode 0x00000007#32 = .error .reservedOpc ∧
    decode 0x00000110#32 = .error .widthField ∧ decode 0x00010000#32 = .error .zeroField

/-- Decoding the word of a well-formed command gives the command back (R70, R71, R73). -/
def Obligations.DecodeOfEncode : Prop :=
  ∀ i : Instr, i.wellFormed = true → decode (encode i) = .ok i

/-- Every command word has one meaning: a word that decodes is the word of the command it decodes to (R71, R330). -/
def Obligations.EncodeOfDecode : Prop :=
  ∀ w : CmdWord, (∀ i, decode w = .ok i → i.wellFormed = true ∧ encode i = w) ∧
    (∀ r ∈ opcodeMap, ∀ r' ∈ opcodeMap, rowMatches w r = true → rowMatches w r' = true → r.pattern = r'.pattern)

/-- Every word that is no row of the opcode map raises ILLEGAL_CMD and does nothing else; every other word is a
command (R74, R75). -/
def Obligations.IllegalWordFaults : Prop :=
  ∀ w : CmdWord, ((∃ i, decode w = .ok i) ↔ LegalWord w) ∧
    (¬LegalWord w → ∀ (s : State) (l : Lane), Running s l →
      issue w s = .next (putLane s { l with fault := true, cause := 3#4 }))

/-- On a halted lane every command, and every illegal word, changes nothing (R330, R381). -/
def Obligations.HaltedLaneIgnoresCommands : Prop :=
  ∀ (s : State) (l : Lane), curLane s = some l → l.fault = true →
    (∀ i, exec i s = .next s) ∧ (∀ w, issue w s = .next s)

/-- Which fault a command word raises on a running lane, that it records only the code, and when it raises none
(R341). -/
def Obligations.FaultCauses : Prop :=
  ∀ (w : CmdWord) (s : State) (l : Lane), Running s l → ∃ t l', issue w s = .next t ∧ curLane t = some l' ∧
    ((l'.fault = true ∧ l'.cause = 1#4) ↔ decode w = .ok .encBc7 ∧ s.bc7Ready = false) ∧
    ((l'.fault = true ∧ l'.cause = 2#4) ↔ ∃ n, decode w = .ok (.chksize n) ∧ l.bitpos.toNat ≠ n) ∧
    ((l'.fault = true ∧ l'.cause = 3#4) ↔ ∀ i, decode w ≠ .ok i) ∧
    ((l'.fault = true ∧ l'.cause = 4#4) ↔ ∃ n,
      (decode w = .ok (.setbits n) ∧ (n = 0 ∨ 64 < n ∨ 128 < l.bitpos.toNat + n ∨ 2 ^ n ≤ l.arg.toNat)) ∨
      (decode w = .ok (.getbits n) ∧ (n = 0 ∨ 64 < n ∨ 128 < l.bitpos.toNat + n))) ∧
    (l'.fault = true → 1 ≤ l'.cause.toNat ∧ l'.cause.toNat ≤ 4 ∧
      t = putLane s { l with fault := true, cause := l'.cause }) ∧
    (l'.fault = false → l'.cause = l.cause)

/-- A faulting command changes no state but FAULT and CAUSE of its lane (R344, R330). -/
def Obligations.FaultChangesOnlyFaultAndCause : Prop :=
  ∀ (w : CmdWord) (s t : State) (l l' : Lane), Running s l → issue w s = .next t → curLane t = some l' →
    l'.fault = true → t = putLane s { l with fault := true, cause := l'.cause }

/-- No input but reset clears a lane's FAULT or changes its CAUSE (R345, R27). -/
def Obligations.FaultStaysUntilReset : Prop :=
  ∀ (s t : State) (k : Nat) (l : Lane), s.lanes[k]? = some l → l.fault = true →
    s.pending.head? ≠ some .reset → step s = .next t →
    ∃ l', t.lanes[k]? = some l' ∧ l'.fault = true ∧ l'.cause = l.cause

/-- Once BC7_READY is 1, no input but reset changes it, OPT1 or OPT7 (R27, R31, R290). -/
def Obligations.ReadyTablesStayUntilReset : Prop :=
  ∀ s t : State, s.bc7Ready = true → s.pending.head? ≠ some .reset → step s = .next t →
    t.bc7Ready = true ∧ t.opt1 = s.opt1 ∧ t.opt7 = s.opt7

/-- The machine invariant holds in the reset state of any device with at least one lane (R37, R370). -/
def Obligations.InvariantAtReset : Prop :=
  (∀ (n : Nat) (p : Params), 0 < n → Inv (State.resetWith n p)) ∧ Inv State.reset

/-- Every step keeps the machine invariant, whatever the input (R25, R26, R27, R31). -/
def Obligations.InvariantKeptByEveryStep : Prop :=
  ∀ s t : State, Inv s → step s = .next t → Inv t

/-- A machine whose next input is addressed to some lane's window always takes a step to a next state (R340, R347,
R380). -/
def Obligations.AddressedStepsNeverStop : Prop :=
  ∀ s : State, SafeState s → ∃ t, step s = .next t

/-- A command changes nothing of another lane, and nothing shared but for INIT.BC7 (R38, R59, R14). -/
def Obligations.CommandsKeepOtherLanes : Prop :=
  ∀ (i : Instr) (s t : State), exec i s = .next t →
    t.lanes.length = s.lanes.length ∧ (∀ k, k ≠ s.cur → t.lanes[k]? = s.lanes[k]?) ∧
    t.params = s.params ∧ t.cur = s.cur ∧ t.pending = s.pending ∧ t.response = s.response ∧
    (i ≠ .initBc7 → t.bc7Ready = s.bc7Ready ∧ t.opt1 = s.opt1 ∧ t.opt7 = s.opt7)

/-- A command writes only the registers its row of the opcode map lists (R330, R71, R22, R23, R24, R25, R26). -/
def Obligations.CommandsWriteOnlyListedRegisters : Prop :=
  ∀ (i : Instr) (s t : State) (l l' : Lane), Running s l → exec i s = .next t → curLane t = some l' →
    (l'.arg = l.arg ∧ l'.ctrl = l.ctrl ∧ l'.w1 = l.w1 ∧ l'.w5 = l.w5 ∧ l'.w6 = l.w6 ∧ l'.w7 = l.w7) ∧
    ((∀ n, i ≠ .getbits n) → l'.res = l.res) ∧
    (i ∉ [.decBc1, .decBc3, .decBc4, .decBc5, .decBc7] → l'.tile = l.tile) ∧
    ((∀ n, i ≠ .setbits n) → i ∉ [.clrblk, .fixboEtc, .bswap64, .encEtc1, .encEtc2Rgb, .encEtc2Rgba, .encEtc2R11,
      .encEtc2Rg11, .encBc1, .encBc3, .encBc4, .encBc5, .encBc7] → l'.blk = l.blk) ∧
    (i ∈ [.fixboEtc, .bswap64, .encEtc1, .encEtc2Rgb, .encEtc2R11, .encBc1, .encBc4] →
      highHalf l'.blk = highHalf l.blk) ∧
    (i = .fixboEtc → ∀ k < 4, byteOf l'.blk k = byteOf l.blk k) ∧
    (i ∈ [.nop, .fixboEtc, .bswap64, .initBc7] ∨ (∃ n, i = .chksize n) → l'.bitpos = l.bitpos) ∧
    ((∀ n, i ≠ .setbits n ∧ i ≠ .getbits n ∧ i ≠ .chksize n) → i ≠ .encBc7 →
      l'.fault = l.fault ∧ l'.cause = l.cause)

/-- NOP changes no state, on a running and on a halted lane (R331). -/
def Obligations.NopChangesNothing : Prop :=
  decode 0x00000000#32 = .ok .nop ∧ ∀ (s : State) (l : Lane), curLane s = some l → exec .nop s = .next s

/-- CLRBLK clears BLK and BITPOS and nothing else, and never faults (R93). -/
def Obligations.ClrblkEffect : Prop :=
  decode 0x00000001#32 = .ok .clrblk ∧
    ∀ (s : State) (l : Lane), Running s l → exec .clrblk s = .next (putLane s { l with blk := 0#128, bitpos := 0#8 })

/-- SETBITS: when it faults, and otherwise which bits of BLK it overwrites (R91). -/
def Obligations.SetbitsEffect : Prop :=
  (∀ w < 256, decode (cmdWord 0x02 w) = .ok (.setbits w)) ∧
    ∀ (s : State) (l : Lane) (w : Nat), Running s l →
    ((w = 0 ∨ 64 < w ∨ 128 < l.bitpos.toNat + w ∨ 2 ^ w ≤ l.arg.toNat) →
      exec (.setbits w) s = .next (putLane s { l with fault := true, cause := 4#4 })) ∧
    (¬(w = 0 ∨ 64 < w ∨ 128 < l.bitpos.toNat + w ∨ 2 ^ w ≤ l.arg.toNat) → ∃ (b : Block) (p : BitVec 8),
      exec (.setbits w) s = .next (putLane s { l with blk := b, bitpos := p }) ∧
      p.toNat = l.bitpos.toNat + w ∧
      ∀ n < 128, b.getLsbD n =
        if l.bitpos.toNat ≤ n ∧ n < l.bitpos.toNat + w then l.arg.getLsbD (n - l.bitpos.toNat)
        else l.blk.getLsbD n)

/-- GETBITS: when it faults, what it reads into RES, and the read-back law with SETBITS (R92). -/
def Obligations.GetbitsEffectAndLaw : Prop :=
  (∀ w < 256, decode (cmdWord 0x03 w) = .ok (.getbits w)) ∧
    ∀ (s : State) (l : Lane) (w : Nat), Running s l →
    ((w = 0 ∨ 64 < w ∨ 128 < l.bitpos.toNat + w) →
      exec (.getbits w) s = .next (putLane s { l with fault := true, cause := 4#4 })) ∧
    (¬(w = 0 ∨ 64 < w ∨ 128 < l.bitpos.toNat + w) → ∃ (r : BitVec 64) (p : BitVec 8),
      exec (.getbits w) s = .next (putLane s { l with res := r, bitpos := p }) ∧
      p.toNat = l.bitpos.toNat + w ∧
      (∀ k < 64, r.getLsbD k = (decide (k < w) && l.blk.getLsbD (l.bitpos.toNat + k))) ∧
      (l.arg.toNat < 2 ^ w → ∃ t l' u l'', exec (.setbits w) s = .next t ∧ curLane t = some l' ∧
        exec (.getbits w) (putLane t { l' with bitpos := l.bitpos }) = .next u ∧ curLane u = some l'' ∧
        l''.res = l.arg) ∧
      ∃ u l'', exec (.setbits w) (putLane s { l with arg := r }) = .next u ∧ curLane u = some l'' ∧
        l''.blk = l.blk)

/-- CHKSIZE changes nothing when BITPOS equals its operand and raises SIZE_MISMATCH otherwise (R94). -/
def Obligations.ChksizeEffect : Prop :=
  (∀ n < 256, decode (cmdWord 0x04 n) = .ok (.chksize n)) ∧
    ∀ (s : State) (l : Lane), Running s l →
    (∀ n, (l.bitpos.toNat = n → exec (.chksize n) s = .next s) ∧
      (l.bitpos.toNat ≠ n → exec (.chksize n) s = .next (putLane s { l with fault := true, cause := 2#4 })) ∧
      (LaneInv l → 128 < n → exec (.chksize n) s = .next (putLane s { l with fault := true, cause := 2#4 }))) ∧
    (∃ t, exec .clrblk s = .next t ∧ exec (.chksize 0) t = .next t) ∧
    (l.bitpos = 128#8 → exec (.chksize 128) s = .next s ∧
      exec (.chksize 64) s = .next (putLane s { l with fault := true, cause := 2#4 }))

/-- FIXBO.ETC reverses BLK[4..7] and keeps everything else; twice restores BLK (R95). -/
def Obligations.FixboEtcEffect : Prop :=
  decode 0x00000005#32 = .ok .fixboEtc ∧
    ∀ (s : State) (l : Lane), Running s l → ∃ b : Block,
      exec .fixboEtc s = .next (putLane s { l with blk := b }) ∧
      (∀ k < 16, byteOf b k = byteOf l.blk (if 4 ≤ k ∧ k < 8 then 11 - k else k)) ∧
      exec .fixboEtc (putLane s { l with blk := b }) = .next s

/-- BSWAP64 reverses BLK[0..7] and keeps everything else; twice restores BLK (R96). -/
def Obligations.Bswap64Effect : Prop :=
  decode 0x00000006#32 = .ok .bswap64 ∧
    ∀ (s : State) (l : Lane), Running s l → ∃ b : Block,
      exec .bswap64 s = .next (putLane s { l with blk := b }) ∧
      (∀ k < 16, byteOf b k = byteOf l.blk (if k < 8 then 7 - k else k)) ∧
      wordOf (lowHalf b) = getField l.blk 0 64 ∧
      exec .bswap64 (putLane s { l with blk := b }) = .next s

/-- INIT.BC7 writes the two tables and BC7_READY once; every later execution does nothing (R290). -/
def Obligations.InitBc7Effect : Prop :=
  decode 0x00000008#32 = .ok .initBc7 ∧
    ∀ (s : State) (l : Lane), Running s l →
    (s.bc7Ready = true → exec .initBc7 s = .next s) ∧
    (s.bc7Ready = false →
      exec .initBc7 s = .next { s with opt1 := opt1Table, opt7 := opt7Table, bc7Ready := true } ∧
      exec .initBc7 { s with opt1 := opt1Table, opt7 := opt7Table, bc7Ready := true }
        = .next { s with opt1 := opt1Table, opt7 := opt7Table, bc7Ready := true }) ∧
    ∃ t, exec .initBc7 s = .next t ∧ t.lanes = s.lanes ∧
      ∀ l' ∈ t.lanes, (statusWord t.bc7Ready l').getLsbD 0 = true

/-- Every entry of OPT1 and OPT7 is the first pair of endpoint fields with the least squared error, and that error
(R121, R122). -/
def Obligations.SingleColourTablesAreLeast : Prop :=
  (∀ c < 256, ∀ p < 2,
      let val : Nat → Nat → Nat := fun lo hi =>
        sqDiff ((expand 7 (2 * lo + p) * (64 - 18) + expand 7 (2 * hi + p) * 18 + 32) / 64) c
      let e := opt1At opt1Table c p
      e.lo < 64 ∧ e.hi < 64 ∧ e.err = val e.lo e.hi ∧
        ∀ lo < 64, ∀ hi < 64, e.err ≤ val lo hi ∧ (val lo hi = e.err → e.lo < lo ∨ (e.lo = lo ∧ e.hi ≤ hi))) ∧
    (∀ c < 256, ∀ hp < 2, ∀ lp < 2,
      let val : Nat → Nat → Nat := fun lo hi =>
        sqDiff ((expand 6 (2 * lo + lp) * (64 - 21) + expand 6 (2 * hi + hp) * 21 + 32) / 64) c
      let e := opt7At opt7Table c hp lp
      e.lo < 32 ∧ e.hi < 32 ∧ e.err = val e.lo e.hi ∧
        ∀ lo < 32, ∀ hi < 32, e.err ≤ val lo hi ∧ (val lo hi = e.err → e.lo < lo ∨ (e.lo = lo ∧ e.hi ≤ hi)))

/-- ENC.BC7 with BC7_READY = 0 always faults with cause 1, writing nothing; CHKSIZE always compares (R346). -/
def Obligations.UninitialisedBc7Faults : Prop :=
  ∀ (s : State) (l : Lane), Running s l →
    (s.bc7Ready = false → exec .encBc7 s = .next (putLane s { l with fault := true, cause := 1#4 })) ∧
    (∀ n, l.bitpos.toNat ≠ n → exec (.chksize n) s = .next (putLane s { l with fault := true, cause := 2#4 }))

/-- ENC.BC7 with the tables ready writes BLK and BITPOS only, in an allowed mode; that R302 corrects no free choice
is the model's choice (log 24) (R299, R308, R291, R220). -/
def Obligations.EncBc7Effect : Prop :=
  ∀ (s : State) (l : Lane), Running s l → s.bc7Ready = true → ∃ b : Block,
    exec .encBc7 s = .next (putLane s { l with blk := b, bitpos := 128#8 }) ∧
    b = packChoice (canonicalise (bc7Search s.params (searchArgs s l))) ∧
    ((∀ i < 16, (tilePx l.tile i).a = 255) → bc7ModeOf b = 6 ∨ bc7ModeOf b = 1) ∧
    ((∃ i < 16, (tilePx l.tile i).a ≠ 255) → bc7ModeOf b = 6 ∨ bc7ModeOf b = 5 ∨ bc7ModeOf b = 7) ∧
    (bc7ModeOf b = 5 → getField b 6 2 = 0) ∧
    (bc7ModeOf b = 1 → ∀ q ∈ bc7Decode b, q.a = 255)

/-- Canonicalisation changes no pixel of a legal choice and clears the top bit of every anchor selector (R297,
R113, R150). -/
def Obligations.CanonicalisationKeepsPixels : Prop :=
  ∀ (px : List Px) (c : Choice), choiceContract px c = true →
    choiceContract px (canonicalise c) = true ∧ AnchorsClear (canonicalise c) ∧
    choicePixels (canonicalise c) = choicePixels c

/-- The block packed from a legal, canonical choice decodes to exactly the pixels the choice stands for (R298,
R206, R147). -/
def Obligations.PackedChoiceDecodes : Prop :=
  ∀ (px : List Px) (c : Choice), choiceContract px c = true → AnchorsClear c →
    bc7Decode (packChoice c) = choicePixels c

/-- DEC.BC7 after ENC.BC7 returns the pixels of the search's choice; for a free choice, not corrected by R302, that
is the model's choice (log 24) (R206, R292, R299). -/
def Obligations.DecBc7InvertsEncBc7 : Prop :=
  ∀ (s : State) (l : Lane), Running s l → LaneInv l → TablesInv s → s.bc7Ready = true →
    choiceContract (tilePixels l.tile) (bc7Search s.params (searchArgs s l)) = true ∧
    ∃ t u l', exec .encBc7 s = .next t ∧ exec .decBc7 t = .next u ∧ curLane u = some l' ∧
      tilePixels l'.tile = choicePixels (bc7Search s.params (searchArgs s l))

/-- The BC7 field widths sum to 128 in every mode, and every BC1, BC4, EAC and valid ETC1 block is the packing of
its fields (R97, R147, R140, R142, R172, R173, R180). -/
def Obligations.FieldsFillEveryBlock : Prop :=
  (∀ mode < 8, ∀ part < 64, part < 2 ^ (bc7Mode mode).pb → (bc7Widths mode part).sum = 128) ∧
    ∀ h : Half,
      packBc1 (bc1C0 h) (bc1C1 h) ((List.range 16).map (bc1Sel h)) = h ∧
      packBc4 (bc4E0 h) (bc4E1 h) ((List.range 16).map (bc4Idx h)) = h ∧
      let w := wordOf h
      let sels := (List.range 16).map (etcSel w)
      halfOfWord (eacWord (field w 56 8) (field w 52 4) (field w 48 4) ((List.range 16).map (eacIdx w))) = h ∧
      (etcModeOf w = .individual →
        halfOfWord (etc1Word false [field w 60 4, field w 52 4, field w 44 4] [field w 56 4, field w 48 4, field w 40 4]
          (etcTable w 0) (etcTable w 1) (field w 32 1) sels) = h) ∧
      (etcModeOf w = .differential →
        halfOfWord (etc1Word true [field w 59 5, field w 51 5, field w 43 5]
          [(diffSum w 56).toNat, (diffSum w 48).toNat, (diffSum w 40).toNat]
          (etcTable w 0) (etcTable w 1) (field w 32 1) sels) = h)

/-- The partition, anchor and weight tables pass the checks the spec lists (R118, R113, R117). -/
def Obligations.PartitionTablesAreConsistent : Prop :=
  (∀ π < 64, part2 π 0 = 0 ∧ part3 π 0 = 0) ∧
    (∀ π < 64, part2 π (anchor 2 π 1) = 1 ∧ part3 π (anchor 3 π 1) = 1 ∧ part3 π (anchor 3 π 2) = 2) ∧
    (∀ π < 64, (∀ v < 2, ∃ i < 16, part2 π i = v) ∧ (∀ v < 3, ∃ i < 16, part3 π i = v) ∧
      (∀ i < 16, part2 π i < 2 ∧ part3 π i < 3)) ∧
    (∀ π < 64, ∀ ρ < 64, π ≠ ρ → (∃ i < 16, part2 π i ≠ part2 ρ i) ∧ (∃ i < 16, part3 π i ≠ part3 ρ i)) ∧
    (∀ n ∈ [2, 3, 4], (weights n).length = 2 ^ n ∧ ∀ j < 2 ^ n, weight n (2 ^ n - 1 - j) = 64 - weight n j)

/-- ENC.ETC1, ENC.ETC2_RGB, ENC.ETC2_R11, ENC.BC1 and ENC.BC4 complete, writing BLK[0..7] and BITPOS = 64 only
(R220, R230, R237, R242, R265, R269). -/
def Obligations.EncodersOf64BitFormats : Prop :=
  ∀ (s : State) (l : Lane), Running s l →
    exec .encEtc1 s = .next (putLane s { l with
      blk := blockOf (encEtc1 s.params.encoder (tileRgb l.tile)) (highHalf l.blk), bitpos := 64#8 }) ∧
    exec .encEtc2Rgb s = .next (putLane s { l with
      blk := blockOf (encEtc2Rgb s.params.encoder .etc2Rgb (tileRgb l.tile) (ctrlEtc2Th l.ctrl)) (highHalf l.blk),
      bitpos := 64#8 }) ∧
    exec .encEtc2R11 s = .next (putLane s { l with
      blk := blockOf (encEac s.params.encoder .etc2R11 (tileR l.tile)) (highHalf l.blk), bitpos := 64#8 }) ∧
    exec .encBc1 s = .next (putLane s { l with
      blk := blockOf (encBc1 s.params.encoder s.params.idx3 .bc1 (tileRgb l.tile) (ctrlDither l.ctrl))
        (highHalf l.blk), bitpos := 64#8 }) ∧
    exec .encBc4 s = .next (putLane s { l with
      blk := blockOf (encBc4 s.params.encoder .bc4 (tileR l.tile)) (highHalf l.blk), bitpos := 64#8 })

/-- ENC.ETC2_RGBA, ENC.ETC2_RG11, ENC.BC3 and ENC.BC5 complete, writing both halves of BLK and BITPOS = 128 only
(R220, R241, R243, R270, R271). -/
def Obligations.EncodersOf128BitFormats : Prop :=
  ∀ (s : State) (l : Lane), Running s l →
    exec .encEtc2Rgba s = .next (putLane s { l with
      blk := blockOf (encEac s.params.encoder .etc2Rgba (tileA l.tile))
        (encEtc2Rgb s.params.encoder .etc2Rgba (tileRgb l.tile) (ctrlEtc2Th l.ctrl)), bitpos := 128#8 }) ∧
    exec .encEtc2Rg11 s = .next (putLane s { l with
      blk := blockOf (encEac s.params.encoder .etc2Rg11 (tileR l.tile))
        (encEac s.params.encoder .etc2Rg11 (tileG l.tile)), bitpos := 128#8 }) ∧
    exec .encBc3 s = .next (putLane s { l with
      blk := blockOf (encBc4 s.params.encoder .bc3 (tileA l.tile))
        (encBc1 s.params.encoder s.params.idx3 .bc3 (tileRgb l.tile) (ctrlDither l.ctrl)), bitpos := 128#8 }) ∧
    exec .encBc5 s = .next (putLane s { l with
      blk := blockOf (encBc4 s.params.encoder .bc5 (tileR l.tile))
        (encBc4 s.params.encoder .bc5 (tileG l.tile)), bitpos := 128#8 })

/-- The block an encoder writes depends only on the channels its format uses and the options it reads (R220, R59,
R221). -/
def Obligations.BlocksDependOnlyOnUsedChannels : Prop :=
  ∀ (s s' : State) (l l' : Lane), Running s l → Running s' l' → s.params = s'.params →
    let lowAfter : Instr → State → Option Half := fun i s =>
      match exec i s with
      | .next t => (curLane t).map fun m => lowHalf m.blk
      | _ => none
    let blkAfter : Instr → State → Option Block := fun i s =>
      match exec i s with
      | .next t => (curLane t).map fun m => m.blk
      | _ => none
    (tileRgb l.tile = tileRgb l'.tile →
      lowAfter .encEtc1 s = lowAfter .encEtc1 s' ∧ (lowAfter .encEtc1 s).isSome ∧
      (ctrlEtc2Th l.ctrl = ctrlEtc2Th l'.ctrl → lowAfter .encEtc2Rgb s = lowAfter .encEtc2Rgb s') ∧
      (ctrlDither l.ctrl = ctrlDither l'.ctrl → lowAfter .encBc1 s = lowAfter .encBc1 s')) ∧
    (tileR l.tile = tileR l'.tile →
      lowAfter .encEtc2R11 s = lowAfter .encEtc2R11 s' ∧ lowAfter .encBc4 s = lowAfter .encBc4 s') ∧
    (tileR l.tile = tileR l'.tile → tileG l.tile = tileG l'.tile →
      blkAfter .encEtc2Rg11 s = blkAfter .encEtc2Rg11 s' ∧ blkAfter .encBc5 s = blkAfter .encBc5 s') ∧
    (l.tile = l'.tile →
      (ctrlEtc2Th l.ctrl = ctrlEtc2Th l'.ctrl → blkAfter .encEtc2Rgba s = blkAfter .encEtc2Rgba s') ∧
      (ctrlDither l.ctrl = ctrlDither l'.ctrl → blkAfter .encBc3 s = blkAfter .encBc3 s') ∧
      (s.bc7Ready = true → s'.bc7Ready = true → s.opt1 = s'.opt1 → s.opt7 = s'.opt7 →
        ctrlPrune l.ctrl = ctrlPrune l'.ctrl → ctrlEffort l.ctrl = ctrlEffort l'.ctrl →
        ctrlMaxPart l.ctrl = ctrlMaxPart l'.ctrl → l.w1 = l'.w1 → l.w5 = l'.w5 → l.w6 = l'.w6 → l.w7 = l'.w7 →
        blkAfter .encBc7 s = blkAfter .encBc7 s'))

/-- After any ENC.fmt or DEC.fmt that completes, CHKSIZE BLOCK_BITS(fmt) passes (R376, R97, R78). -/
def Obligations.ChksizePassesAfterCodecCommand : Prop :=
  ∀ (f : Fmt) (s : State) (l : Lane), Running s l →
    (s.bc7Ready = true → ∃ t l', exec (encInstr f) s = .next t ∧ Running t l' ∧ l'.bitpos.toNat = blockBits f ∧
      exec (.chksize (blockBits f)) t = .next t) ∧
    (∀ i, decInstr f = some i → ∃ t l', exec i s = .next t ∧ Running t l' ∧ l'.bitpos.toNat = blockBits f ∧
      exec (.chksize (blockBits f)) t = .next t)

/-- ENC.ETC1 gives a valid ETC1 block, and the source's white-over-black scenario holds, in either instance (R224,
R178). -/
def Obligations.Etc1BlockIsValid : Prop :=
  ∀ (s : State) (l : Lane), Running s l → ∃ h : Half,
    exec .encEtc1 s = .next (putLane s { l with blk := blockOf h (highHalf l.blk), bitpos := 64#8 }) ∧
    (etcModeOf (wordOf h) = .individual ∨ etcModeOf (wordOf h) = .differential) ∧
    ((∀ i < 16, rgbOf (tilePx l.tile i) = if i < 8 then [255, 255, 255] else [0, 0, 0]) →
      ∀ x < 4, lumaOf (rgbOf (etcPixel (wordOf h) (12 + x))) < lumaOf (rgbOf (etcPixel (wordOf h) x)))

/-- Reference ENC.ETC1 of a solid tile decodes to one colour within 4 of it per channel (R230, R223). -/
def Obligations.Etc1SolidTileWithinFour : Prop :=
  ∀ (s : State) (l : Lane) (r g b : Nat), Running s l → s.params.encoder = .reference →
    (∀ i < 16, rgbOf (tilePx l.tile i) = [r, g, b]) → ∃ (h : Half) (q : List Nat),
      exec .encEtc1 s = .next (putLane s { l with blk := blockOf h (highHalf l.blk), bitpos := 64#8 }) ∧
      q.length = 3 ∧ (∀ ch < 3, q.getD ch 0 < 32) ∧
      ∀ i < 16, (etcPixel (wordOf h) i).a = 255 ∧ ∀ ch < 3,
        chan (rgbOf (etcPixel (wordOf h) i)) ch = clamp255 ((expand 5 (q.getD ch 0) : Int) + 2) ∧
        absDiff (chan (rgbOf (etcPixel (wordOf h) i)) ch) (chan [r, g, b] ch) ≤ 4 ∧
        ∀ q' < 32, absDiff (chan (rgbOf (etcPixel (wordOf h) i)) ch) (chan [r, g, b] ch)
          ≤ absDiff (clamp255 ((expand 5 q' : Int) + 2)) (chan [r, g, b] ch)

/-- With ETC2_TH = 0, ENC.ETC2_RGB does exactly what ENC.ETC1 does, in either instance (R231, R237). -/
def Obligations.Etc2WithoutTHEqualsEtc1 : Prop :=
  ∀ (s : State) (l : Lane), Running s l → ctrlEtc2Th l.ctrl = false → exec .encEtc2Rgb s = exec .encEtc1 s

/-- The words pack_T and pack_H build are classified T and H and decode to the paint colours their selectors name
(R235, R175, R176, R171). -/
def Obligations.PaintBlocksDecodeToTheirPaint : Prop :=
  ∀ (r1 g1 b1 r2 g2 b2 di : Nat) (sel : List Nat), r1 < 16 → g1 < 16 → b1 < 16 → r2 < 16 → g2 < 16 → b2 < 16 →
    di < 8 → sel.length = 16 → (∀ j ∈ sel, j < 4) →
    (tWord [r1, g1, b1] [r2, g2, b2] di sel < 2 ^ 64 ∧ etcModeOf (tWord [r1, g1, b1] [r2, g2, b2] di sel) = .tMode ∧
      ∀ i < 16, etcPixel (tWord [r1, g1, b1] [r2, g2, b2] di sel) i =
        pxOf ((tPaint [17 * r1, 17 * g1, 17 * b1] [17 * r2, 17 * g2, 17 * b2] (thDist di)).getD (sel.getD i 0) []) 255) ∧
    ((256 * r1 + 16 * g1 + b1 ≥ 256 * r2 + 16 * g2 + b2 ↔ di % 2 = 1) →
      hWord [r1, g1, b1] [r2, g2, b2] di sel < 2 ^ 64 ∧ etcModeOf (hWord [r1, g1, b1] [r2, g2, b2] di sel) = .hMode ∧
      ∀ i < 16, etcPixel (hWord [r1, g1, b1] [r2, g2, b2] di sel) i =
        pxOf ((hPaint [17 * r1, 17 * g1, 17 * b1] [17 * r2, 17 * g2, 17 * b2] (thDist di)).getD (sel.getD i 0) []) 255)

/-- In the reference instance the RGB error of ENC.ETC2_RGB is never greater than that of ENC.ETC1 (R234, R233). -/
def Obligations.Etc2NeverWorseThanEtc1 : Prop :=
  ∀ (s : State) (l : Lane), Running s l → s.params.encoder = .reference → ∃ h h' : Half,
    exec .encEtc1 s = .next (putLane s { l with blk := blockOf h (highHalf l.blk), bitpos := 64#8 }) ∧
    exec .encEtc2Rgb s = .next (putLane s { l with blk := blockOf h' (highHalf l.blk), bitpos := 64#8 }) ∧
    blockErr (etcDecode h') (tileRgb l.tile) ≤ blockErr (etcDecode h) (tileRgb l.tile)

/-- A channel of one value round-trips exactly through EAC blocks, in either instance and both views (R238, R223,
R181, R182, R183). -/
def Obligations.EacSolidRoundTrip : Prop :=
  ∀ (s : State) (l : Lane) (v w : Nat), Running s l →
    ((∀ i < 16, (tilePx l.tile i).r = v) → ∃ h : Half,
      exec .encEtc2R11 s = .next (putLane s { l with blk := blockOf h (highHalf l.blk), bitpos := 64#8 }) ∧
      eac8Decode h = List.replicate 16 v ∧ eac11View8 h = List.replicate 16 v) ∧
    ((∀ i < 16, (tilePx l.tile i).r = v ∧ (tilePx l.tile i).g = w) → ∃ h h' : Half,
      exec .encEtc2Rg11 s = .next (putLane s { l with blk := blockOf h h', bitpos := 128#8 }) ∧
      eac8Decode h = List.replicate 16 v ∧ eac11View8 h = List.replicate 16 v ∧
      eac8Decode h' = List.replicate 16 w ∧ eac11View8 h' = List.replicate 16 w) ∧
    ((∀ i < 16, (tilePx l.tile i).a = v) → ∃ h h' : Half,
      exec .encEtc2Rgba s = .next (putLane s { l with blk := blockOf h h', bitpos := 128#8 }) ∧
      eac8Decode h = List.replicate 16 v ∧ eac11View8 h = List.replicate 16 v ∧
      etc2RgbaDecode (blockOf h h') = (etcDecode h').map fun q => { q with a := v })

/-- A channel of one value round-trips exactly through BC4 blocks, in either instance (R266, R223, R203, R204). -/
def Obligations.Bc4SolidRoundTrip : Prop :=
  ∀ (s : State) (l : Lane) (v w : Nat), Running s l →
    ((∀ i < 16, (tilePx l.tile i).r = v) → ∃ t u l', exec .encBc4 s = .next t ∧ exec .decBc4 t = .next u ∧
      curLane u = some l' ∧ ∀ i < 16, tilePx l'.tile i = ⟨v, 0, 0, 255⟩) ∧
    ((∀ i < 16, (tilePx l.tile i).r = v ∧ (tilePx l.tile i).g = w) → ∃ t u l', exec .encBc5 s = .next t ∧
      exec .decBc5 t = .next u ∧ curLane u = some l' ∧ ∀ i < 16, tilePx l'.tile i = ⟨v, w, 0, 255⟩) ∧
    ((∀ i < 16, (tilePx l.tile i).a = v) → ∃ t u l', exec .encBc3 s = .next t ∧ exec .decBc3 t = .next u ∧
      curLane u = some l' ∧ ∀ i < 16, (tilePx l'.tile i).a = v)

/-- Reference ENC.BC4 of a tile that is not solid: greatest and least value as endpoints, a nearest palette value
per pixel (R267, R269, R143). -/
def Obligations.Bc4IndicesAreNearest : Prop :=
  ∀ (s : State) (l : Lane) (i₀ j₀ : Nat), Running s l → s.params.encoder = .reference → i₀ < 16 → j₀ < 16 →
    (tilePx l.tile i₀).r ≠ (tilePx l.tile j₀).r →
    ∃ t u m m' , exec .encBc4 s = .next t ∧ curLane t = some m ∧ exec .decBc4 t = .next u ∧ curLane u = some m' ∧
      (∀ i < 16, getField m.blk 8 8 ≤ (tilePx l.tile i).r ∧ (tilePx l.tile i).r ≤ getField m.blk 0 8) ∧
      (∃ i < 16, (tilePx l.tile i).r = getField m.blk 0 8) ∧ (∃ i < 16, (tilePx l.tile i).r = getField m.blk 8 8) ∧
      ∀ i < 16, ∀ v ∈ bc4Palette (getField m.blk 0 8) (getField m.blk 8 8),
        absDiff (tilePx m'.tile i).r (tilePx l.tile i).r ≤ absDiff v (tilePx l.tile i).r

/-- An all-red tile encoded as BC1 and decoded is within 2 per channel of opaque red, in either instance (R261). -/
def Obligations.Bc1RedScenario : Prop :=
  ∀ (s : State) (l : Lane), Running s l → ctrlDither l.ctrl = false →
    (∀ i < 16, tilePx l.tile i = ⟨255, 0, 0, 255⟩) →
    ∃ t u m, exec .encBc1 s = .next t ∧ exec .decBc1 t = .next u ∧ curLane u = some m ∧
      ∀ i < 16, 253 ≤ (tilePx m.tile i).r ∧ (tilePx m.tile i).g ≤ 2 ∧ (tilePx m.tile i).b ≤ 2 ∧
        253 ≤ (tilePx m.tile i).a

/-- ENC.BC1 never uses selector 3 of the three-colour mode, so its block decodes with alpha 255, in either instance
(R261, R264, R141, D27). -/
def Obligations.EncBc1NeverTransparent : Prop :=
  ∀ (s : State) (l : Lane), Running s l →
    ∃ t m u m', exec .encBc1 s = .next t ∧ curLane t = some m ∧ exec .decBc1 t = .next u ∧ curLane u = some m' ∧
      ∀ i < 16, ¬(getField m.blk 0 16 ≤ getField m.blk 16 16 ∧ getField m.blk (32 + 2 * i) 2 = 3) ∧
        (tilePx m'.tile i).a = 255

/-- Reference ENC.BC1 of a solid tile without dithering: error at most 4, 2, 4, and 0 and 255 exact (R265, R223). -/
def Obligations.Bc1SolidTileErrors : Prop :=
  ∀ (s : State) (l : Lane) (r g b : Nat), Running s l → s.params.encoder = .reference → ctrlDither l.ctrl = false →
    (∀ i < 16, rgbOf (tilePx l.tile i) = [r, g, b]) →
    ∃ t u m r' g' b', exec .encBc1 s = .next t ∧ exec .decBc1 t = .next u ∧ curLane u = some m ∧
      (∀ i < 16, tilePx m.tile i = ⟨r', g', b', 255⟩) ∧ absDiff r' r ≤ 4 ∧ absDiff g' g ≤ 2 ∧ absDiff b' b ≤ 4 ∧
      (r = 0 ∨ r = 255 → r' = r) ∧ (g = 0 ∨ g = 255 → g' = g) ∧ (b = 0 ∨ b = 255 → b' = b)

/-- A colour half of the reference encoder decodes alike in BC1's reading and in BC3's four-colour reading (R270,
R144). -/
def Obligations.Bc3ColourHalfReadsAlike : Prop :=
  (∀ (p : List Colour) (dith : Bool) (a a' : Idx3Alpha),
      bc1Decode a (refEncBc1 p dith) true = bc1Decode a' (refEncBc1 p dith) false) ∧
    ∀ (s : State) (l : Lane), Running s l → s.params.encoder = .reference →
      ∃ t m, exec .encBc3 s = .next t ∧ curLane t = some m ∧
        highHalf m.blk = refEncBc1 (tileRgb l.tile) (ctrlDither l.ctrl)

/-- DEC.BC1 writes TILE with the palette colours the selectors name, BITPOS = 64, and nothing else (R201, R200,
R140, R141). -/
def Obligations.DecBc1Effect : Prop :=
  ∀ (s : State) (l : Lane), Running s l → ∃ t : TileBuf,
    exec .decBc1 s = .next (putLane s { l with tile := t, bitpos := 64#8 }) ∧
    ∀ i < 16, tilePx t i =
      (let c0 := getField l.blk 0 16
       let c1 := getField l.blk 16 16
       let ch : Nat → List Nat := fun c => [expand 5 (c / 2048), expand 6 (c / 32 % 64), expand 5 (c % 32)]
       let mix : (Nat → Nat → Nat) → Px := fun f =>
         ⟨f ((ch c0).getD 0 0) ((ch c1).getD 0 0), f ((ch c0).getD 1 0) ((ch c1).getD 1 0),
           f ((ch c0).getD 2 0) ((ch c1).getD 2 0), 255⟩
       match getField l.blk (32 + 2 * i) 2 with
       | 0 => mix fun x _ => x
       | 1 => mix fun _ y => y
       | 2 => if c0 > c1 then mix fun x y => (2 * x + y) / 3 else mix fun x y => (x + y) / 2
       | _ => if c0 > c1 then mix fun x y => (x + 2 * y) / 3
              else ⟨0, 0, 0, if s.params.idx3 = .opaqueBlack then 255 else 0⟩)

/-- DEC.BC4 and DEC.BC5 write TILE with the interpolated values their indices name, BITPOS = 64 or 128, and nothing
else (R203, R204, R200, R142, R143). -/
def Obligations.DecBc4AndDecBc5Effect : Prop :=
  ∀ (s : State) (l : Lane), Running s l →
    let value : Nat → Nat → Nat := fun o i =>
       let e0 := getField l.blk o 8
       let e1 := getField l.blk (o + 8) 8
       match getField l.blk (o + 16 + 3 * i) 3 with
       | 0 => e0
       | 1 => e1
       | k => if e0 > e1 then ((8 - k) * e0 + (k - 1) * e1) / 7
              else if k = 6 then 0 else if k = 7 then 255 else ((6 - k) * e0 + (k - 1) * e1) / 5
    (∃ t : TileBuf, exec .decBc4 s = .next (putLane s { l with tile := t, bitpos := 64#8 }) ∧
      ∀ i < 16, tilePx t i = ⟨value 0 i, 0, 0, 255⟩) ∧
    (∃ t : TileBuf, exec .decBc5 s = .next (putLane s { l with tile := t, bitpos := 128#8 }) ∧
      ∀ i < 16, tilePx t i = ⟨value 0 i, value 64 i, 0, 255⟩)

/-- DEC.BC3 takes alpha from BLK[0..7] and a four-colour BC1 colour from BLK[8..15], BITPOS = 128, and nothing else
(R202, R200, R144). -/
def Obligations.DecBc3Effect : Prop :=
  ∀ (s : State) (l : Lane), Running s l →
    let value : Nat → Nat → Nat := fun o i =>
       let e0 := getField l.blk o 8
       let e1 := getField l.blk (o + 8) 8
       match getField l.blk (o + 16 + 3 * i) 3 with
       | 0 => e0
       | 1 => e1
       | k => if e0 > e1 then ((8 - k) * e0 + (k - 1) * e1) / 7
              else if k = 6 then 0 else if k = 7 then 255 else ((6 - k) * e0 + (k - 1) * e1) / 5
    ∃ t : TileBuf, exec .decBc3 s = .next (putLane s { l with tile := t, bitpos := 128#8 }) ∧
    ∀ i < 16, tilePx t i =
      (let c0 := getField l.blk 64 16
       let c1 := getField l.blk 80 16
       let ch : Nat → List Nat := fun c => [expand 5 (c / 2048), expand 6 (c / 32 % 64), expand 5 (c % 32)]
       let mix : (Nat → Nat → Nat) → Px := fun f =>
         ⟨f ((ch c0).getD 0 0) ((ch c1).getD 0 0), f ((ch c0).getD 1 0) ((ch c1).getD 1 0),
           f ((ch c0).getD 2 0) ((ch c1).getD 2 0), value 0 i⟩
       match getField l.blk (96 + 2 * i) 2 with
       | 0 => mix fun x _ => x
       | 1 => mix fun _ y => y
       | 2 => mix fun x y => (2 * x + y) / 3
       | _ => mix fun x y => (x + 2 * y) / 3)

/-- DEC.BC7 writes TILE with the pixels the fields of BLK give, BITPOS = 128, and nothing else, and does not need
BC7_READY (R205, R200, R152, R146, R148, R150, R151, R114, R113). -/
def Obligations.DecBc7Effect : Prop :=
  ∀ (s : State) (l : Lane), Running s l → ∃ t : TileBuf,
    exec .decBc7 s = .next (putLane s { l with tile := t, bitpos := 128#8 }) ∧
    tilePixels t = bc7Decode l.blk ∧
    (byteOf l.blk 0 = 0#8 → ∀ i < 16, tilePx t i = ⟨0, 0, 0, 0⟩) ∧
    (∀ m < 8, l.blk.getLsbD m = true → (∀ k < m, l.blk.getLsbD k = false) →
      bc7ModeOf l.blk = m ∧ ∀ i < 16,
        let f := bc7Fields m l.blk
        match ([(3, 4, 0, 1, 0, 3, 0), (2, 6, 0, 0, 1, 3, 0), (3, 5, 0, 0, 0, 2, 0), (2, 7, 0, 1, 0, 2, 0),
            (1, 5, 6, 0, 0, 2, 3), (1, 7, 8, 0, 0, 2, 2), (1, 7, 7, 1, 0, 4, 0), (2, 5, 5, 1, 0, 2, 0)] :
            List (Nat × Nat × Nat × Nat × Nat × Nat × Nat)).getD m (0, 0, 0, 0, 0, 0, 0) with
        | (ns, cb, ab, epb, spb, ib, ib2) =>
          let comp : Nat → Nat → Nat := fun e ch =>
            let v := chan (f.q.getD e []) ch
            let n := if ch = 3 then ab else cb
            if n = 0 then 255
            else if epb = 1 then expand (n + 1) (2 * v + f.pb.getD e 0)
            else if spb = 1 then expand (n + 1) (2 * v + f.pb.getD (e / 2) 0)
            else expand n v
          let w : Nat → Nat → Nat := fun n j =>
            if n = 2 then [0, 21, 43, 64].getD j 0
            else if n = 3 then [0, 9, 18, 27, 37, 46, 55, 64].getD j 0
            else [0, 4, 9, 13, 17, 21, 26, 30, 34, 38, 43, 47, 51, 55, 60, 64].getD j 0
          let w1 := w ib (f.sel1.getD i 0)
          let w2 := w ib2 (f.sel2.getD i 0)
          let wc := if ib2 = 0 ∨ f.isb = 0 then w1 else w2
          let wa := if ib2 = 0 ∨ f.isb = 1 then w1 else w2
          let sub := subset ns f.part i
          let mix : Nat → Nat → Nat := fun ch wt =>
            (comp (2 * sub) ch * (64 - wt) + comp (2 * sub + 1) ch * wt + 32) / 64
          (f.rot = 0 → tilePx t i = ⟨mix 0 wc, mix 1 wc, mix 2 wc, mix 3 wa⟩) ∧
          (f.rot = 1 → tilePx t i = ⟨mix 3 wa, mix 1 wc, mix 2 wc, mix 0 wc⟩) ∧
          (f.rot = 2 → tilePx t i = ⟨mix 0 wc, mix 3 wa, mix 2 wc, mix 1 wc⟩) ∧
          (f.rot = 3 → tilePx t i = ⟨mix 0 wc, mix 1 wc, mix 3 wa, mix 2 wc⟩) ∧
          f.rot < 4 ∧ f.isb < 2 ∧ (m ≠ 4 → f.isb = 0) ∧ (m ≠ 4 → m ≠ 5 → f.rot = 0) ∧
          (m < 4 → (tilePx t i).a = 255))

/-- The fields of a BC7 block stand at the bit offsets R147's table prints, in all eight modes (R147, R149, R114). -/
def Obligations.Bc7FieldsAtPrintedOffsets : Prop :=
  ∀ b : Block, ∀ row ∈ ([(0, 1, 0, 0, [5, 29, 53, 0], 77, 83, 0), (1, 2, 0, 0, [8, 32, 56, 0], 80, 82, 0),
      (2, 3, 0, 0, [9, 39, 69, 0], 0, 99, 0), (3, 4, 0, 0, [10, 38, 66, 0], 94, 98, 0),
      (4, 0, 5, 7, [8, 18, 28, 38], 0, 50, 81), (5, 0, 6, 0, [8, 22, 36, 50], 0, 66, 97),
      (6, 0, 0, 0, [7, 21, 35, 49], 63, 65, 0), (7, 8, 0, 0, [14, 34, 54, 74], 94, 98, 0)] :
      List (Nat × Nat × Nat × Nat × List Nat × Nat × Nat × Nat)),
    match row with
    | (mode, partAt, rotAt, isbAt, chanAt, pbAt, sel1At, sel2At) =>
      let m := bc7Mode mode
      let f := bc7Fields mode b
      f.part = getField b partAt m.pb ∧ f.rot = getField b rotAt m.rb ∧ f.isb = getField b isbAt m.isb ∧
      (∀ e < 2 * m.ns, (∀ ch < 3, chan (f.q.getD e []) ch = getField b (chanAt.getD ch 0 + e * m.cb) m.cb) ∧
        chan (f.q.getD e []) 3 = getField b (chanAt.getD 3 0 + e * m.ab) m.ab) ∧
      (∀ j < pbitCount m, f.pb.getD j 0 = getField b (pbAt + j) 1) ∧
      (∀ i < 16, f.sel1.getD i 0 =
        getField b (sel1At + i * m.ib - ((List.range i).filter (isAnchor m.ns f.part)).length)
          (if isAnchor m.ns f.part i then m.ib - 1 else m.ib)) ∧
      (∀ i < 16, f.sel2.getD i 0 =
        getField b (sel2At + i * m.ib2 - (if i = 0 then 0 else 1)) (if i = 0 then m.ib2 - 1 else m.ib2))

/-- A legal read returns the window's bytes, little-endian and zero-extended, and has no side effect (R52, R55,
R57). -/
def Obligations.WindowReadReturnsBytes : Prop :=
  ∀ (s : State) (k off size : Nat) (rest : List Txn) (l : Lane),
    s.pending = hostRead s.params k off size :: rest → s.lanes[k]? = some l → LegalAccess off size →
    ∃ v : BitVec 64, step s = .next { s with pending := rest, cur := k, response := .data v } ∧
      ∀ j < 8, byteOf v j = if j < size then windowByte s.bc7Ready l (off + j) else 0#8

/-- A misaligned, wrongly sized or straddling access gets an error response and changes no state of the unit (R54). -/
def Obligations.IllegalAccessChangesNothing : Prop :=
  ¬LegalAccess 0x3C 8 ∧ LegalAccess 0x38 8 ∧
    ∀ (s : State) (k off size : Nat) (v : BitVec 64) (rest : List Txn),
    (s.pending = hostRead s.params k off size :: rest ∨ s.pending = hostWrite s.params k off size v :: rest) →
    k < s.lanes.length → off < 256 → ¬LegalAccess off size →
    step s = .next { s with pending := rest, cur := k, response := .error }

/-- A legal write to TILE, BLK or ARG replaces exactly the addressed bytes of that lane's window (R52, R55, R33). -/
def Obligations.BufferWriteReplacesBytes : Prop :=
  ∀ (s : State) (k off size : Nat) (v : BitVec 64) (rest : List Txn) (l : Lane),
    s.pending = hostWrite s.params k off size v :: rest → s.lanes[k]? = some l → LegalAccess off size →
    off + size ≤ 0x58 → ∃ l' : Lane,
      step s = .next { s with pending := rest, lanes := s.lanes.set k l', cur := k, response := .ack } ∧
      ∀ j < 256, windowByte s.bc7Ready l' j =
        if off ≤ j ∧ j < off + size then byteOf v (j - off) else windowByte s.bc7Ready l j

/-- Writes of BITPOS, CTRL and the weights store the legalised value and nothing else; read-only offsets ignore
writes (R25, R26, R28, R55). -/
def Obligations.RegisterWritesAreLegalised : Prop :=
  ∀ (s : State) (k off size : Nat) (v : BitVec 64) (rest : List Txn) (l : Lane),
    s.pending = hostWrite s.params k off size v :: rest → s.lanes[k]? = some l → LegalAccess off size →
    let after : Lane → State := fun l' =>
      { s with pending := rest, lanes := s.lanes.set k l', cur := k, response := .ack }
    (off = 0x60 → ∃ p : BitVec 8, step s = .next (after { l with bitpos := p }) ∧
      p.toNat = min (v.toNat % 2 ^ 32) 128) ∧
    (off = 0x64 → ∃ c : BitVec 32, step s = .next (after { l with ctrl := c }) ∧ c.toNat < 2 ^ 13 ∧
      ctrlDither c = v.getLsbD 0 ∧ ctrlEtc2Th c = v.getLsbD 1 ∧ ctrlPrune c = v.getLsbD 2 ∧
      ctrlEffort c = min (v.toNat / 8 % 8) 4 ∧
      ctrlMaxPart c = if v.toNat / 64 % 128 = 0 ∨ 64 < v.toNat / 64 % 128 then 64 else v.toNat / 64 % 128) ∧
    (off = 0x70 → step s = .next (after { l with w1 := v.setWidth 16 })) ∧
    (off = 0x74 → step s = .next (after { l with w5 := v.setWidth 16 })) ∧
    (off = 0x78 → step s = .next (after { l with w6 := v.setWidth 16 })) ∧
    (off = 0x7C → step s = .next (after { l with w7 := v.setWidth 16 })) ∧
    ((0x58 ≤ off ∧ off < 0x60) ∨ off = 0x68 ∨ 0x80 ≤ off →
      step s = .next { s with pending := rest, cur := k, response := .ack })

/-- Which register byte the window shows at each offset of TILE, BLK, ARG, RES, BITPOS, CTRL and the weights (R21,
R22, R23, R24, R25, R26, R28, R51, R52). -/
def Obligations.WindowBytesShowRegisters : Prop :=
  ∀ (ready : Bool) (l : Lane),
    (∀ i < 16, ∀ c < 4, (windowByte ready l (4 * i + c)).toNat = pxChan (tilePx l.tile i) c) ∧
    (∀ k < 16, windowByte ready l (0x40 + k) = byteOf l.blk k) ∧
    (∀ k < 8, windowByte ready l (0x50 + k) = byteOf l.arg k ∧ windowByte ready l (0x58 + k) = byteOf l.res k) ∧
    windowByte ready l 0x60 = l.bitpos ∧ (∀ k < 3, windowByte ready l (0x61 + k) = 0#8) ∧
    (∀ k < 4, windowByte ready l (0x64 + k) = byteOf l.ctrl k) ∧
    ∀ r ∈ [(0x70, l.w1), (0x74, l.w5), (0x78, l.w6), (0x7C, l.w7)],
      (∀ k < 2, windowByte ready l (r.1 + k) = byteOf r.2 k ∧ windowByte ready l (r.1 + 2 + k) = 0#8)

/-- The bits of STATUS, and what ID, CMD and the reserved offsets read as (R27, R29, R30, R51). -/
def Obligations.StatusAndConstantsAsRead : Prop :=
  ∀ (ready : Bool) (l : Lane),
    (statusWord ready l).getLsbD 0 = ready ∧ (statusWord ready l).getLsbD 1 = l.fault ∧
    (statusWord ready l).getLsbD 2 = false ∧ (statusWord ready l).getLsbD 3 = false ∧
    (statusWord ready l).extractLsb' 4 4 = l.cause ∧ (statusWord ready l).toNat < 256 ∧
    (∀ j < 4, windowByte ready l (0x68 + j) = byteOf (statusWord ready l) j) ∧
    windowByte ready l 0x80 = 0x31#8 ∧ windowByte ready l 0x81 = 0x55#8 ∧ windowByte ready l 0x82 = 0x43#8 ∧
    windowByte ready l 0x83 = 0x42#8 ∧ (∀ j < 4, windowByte ready l (0x6C + j) = 0#8) ∧
    (∀ j < 124, windowByte ready l (0x84 + j) = 0#8)
end

