-- ==== Sys2Proof/Laws/Bits.lean ====
section
/-! SUPPORT. What the field and byte operations do, bit by bit. -/

namespace Sys2Proof.Machine

/-- Bit `k` of a field is block bit `o + k` (spec R7). -/
theorem getField_testBit {n : Nat} (x : BitVec n) (o w k : Nat) :
    (getField x o w).testBit k = (decide (k < w) && x.getLsbD (o + k)) := by
  simp [getField, Nat.testBit_mod_two_pow, Nat.testBit_div_two_pow, BitVec.getLsbD, Nat.add_comm]

/-- A field is below two to its width. -/
theorem getField_lt {n : Nat} (x : BitVec n) (o w : Nat) : getField x o w < 2 ^ w :=
  Nat.mod_lt _ (Nat.two_pow_pos w)

/-- Bit `i` after a field is written: the value's bit inside the field, the old bit outside it (spec R91). -/
theorem setField_getLsbD {n : Nat} (x : BitVec n) (o w v i : Nat) (hi : i < n) :
    (setField x o w v).getLsbD i = if o ≤ i ∧ i < o + w then v.testBit (i - o) else x.getLsbD i := by
  have hsum : x.toNat % 2 ^ o + 2 ^ o * (v % 2 ^ w) + 2 ^ (o + w) * (x.toNat / 2 ^ (o + w))
      = 2 ^ o * (2 ^ w * (x.toNat / 2 ^ (o + w)) + v % 2 ^ w) + x.toNat % 2 ^ o := by
    rw [Nat.pow_add]; ring
  have hlow : x.toNat % 2 ^ o < 2 ^ o := Nat.mod_lt _ (Nat.two_pow_pos o)
  have hv : v % 2 ^ w < 2 ^ w := Nat.mod_lt _ (Nat.two_pow_pos w)
  simp only [setField, BitVec.getLsbD_ofNat, hi, decide_true, Bool.true_and, hsum,
    Nat.testBit_two_pow_mul_add _ hlow, Nat.testBit_two_pow_mul_add _ hv, Nat.testBit_mod_two_pow,
    Nat.testBit_div_two_pow]
  by_cases h1 : i < o
  · simp [h1, Nat.not_le.mpr h1, BitVec.getLsbD]
  · by_cases h2 : i - o < w
    · have : i < o + w := by omega
      simp [h1, h2, Nat.le_of_not_lt h1, this]
    · have h3 : ¬ i < o + w := by omega
      have h4 : i - o - w + (o + w) = i := by omega
      simp [h1, h2, h3, h4, BitVec.getLsbD]

/-- Reading a field back after it is written gives the value (spec R92). -/
theorem getField_setField {n : Nat} (x : BitVec n) (o w v : Nat) (hv : v < 2 ^ w) (hn : o + w ≤ n) :
    getField (setField x o w v) o w = v := by
  apply Nat.eq_of_testBit_eq
  intro k
  rw [getField_testBit]
  by_cases hk : k < w
  · rw [setField_getLsbD _ _ _ _ _ (by omega)]
    have h1 : o ≤ o + k ∧ o + k < o + w := by omega
    simp [hk, h1]
  · have : v < 2 ^ k := lt_of_lt_of_le hv (Nat.pow_le_pow_right (by omega) (by omega))
    simp [hk, Nat.testBit_lt_two_pow this]

/-- Writing a field's own value changes nothing (spec R92). -/
theorem setField_getField {n : Nat} (x : BitVec n) (o w : Nat) : setField x o w (getField x o w) = x := by
  apply BitVec.eq_of_getLsbD_eq
  intro i hi
  rw [setField_getLsbD _ _ _ _ _ hi]
  split
  · rename_i h
    rw [getField_testBit]
    have h1 : i - o < w := by omega
    have h2 : o + (i - o) = i := by omega
    simp [h1, h2]
  · rfl

/-- Packed fields are below two to the sum of their widths (spec R97). -/
theorem packFields_lt (fs : List (Nat × Nat)) : packFields fs < 2 ^ (fs.map Prod.snd).sum := by
  induction fs with
  | nil => simp [packFields]
  | cons f fs ih =>
    obtain ⟨v, w⟩ := f
    have hv : v % 2 ^ w < 2 ^ w := Nat.mod_lt _ (Nat.two_pow_pos w)
    simp only [packFields, List.map_cons, List.sum_cons, Nat.pow_add]
    calc v % 2 ^ w + 2 ^ w * packFields fs < 2 ^ w + 2 ^ w * packFields fs := by omega
      _ = 2 ^ w * (packFields fs + 1) := by ring
      _ ≤ 2 ^ w * 2 ^ (fs.map Prod.snd).sum := Nat.mul_le_mul_left _ ih

/-- Splitting packed fields gives their values back, when each fits its width (spec R147, R298). -/
theorem splitFields_packFields (fs : List (Nat × Nat)) (hfit : ∀ f ∈ fs, f.1 < 2 ^ f.2) :
    splitFields (fs.map Prod.snd) (packFields fs) = fs.map Prod.fst := by
  induction fs with
  | nil => rfl
  | cons f fs ih =>
    obtain ⟨v, w⟩ := f
    have hv : v < 2 ^ w := hfit (v, w) (by simp)
    have hpos : 0 < 2 ^ w := Nat.two_pow_pos w
    simp only [packFields, splitFields, List.map_cons, Nat.mod_eq_of_lt hv]
    rw [Nat.add_mul_mod_self_left, Nat.mod_eq_of_lt hv, Nat.add_mul_div_left _ _ hpos, Nat.div_eq_of_lt hv,
      Nat.zero_add, ih fun f hf => hfit f (by simp [hf])]

/-- Byte `k` of a little-endian number, bit by bit. -/
theorem byteOf_getLsbD {n : Nat} (x : BitVec n) (k i : Nat) :
    (byteOf x k).getLsbD i = (decide (i < 8) && x.getLsbD (8 * k + i)) := by
  simp [byteOf]

/-- Byte `k` of a half with its bytes permuted is byte `perm k` of the half. -/
theorem byteOf_permuteBytes (perm : Nat → Nat) (x : Half) (k : Fin 8) :
    byteOf (permuteBytes perm x) k = byteOf x (perm k) := by
  apply BitVec.eq_of_getLsbD_eq
  intro i hi
  rw [byteOf_getLsbD]
  fin_cases k <;> interval_cases i <;> simp [permuteBytes]

/-- Byte `k` of the reversed half is byte `7 - k` (spec R96). -/
theorem byteOf_byteReverse (x : Half) (k : Fin 8) : byteOf (byteReverse x) k = byteOf x (7 - k) :=
  byteOf_permuteBytes _ x k

/-- Reversing twice restores the half (spec R96). -/
theorem byteReverse_byteReverse (x : Half) : byteReverse (byteReverse x) = x := by
  apply BitVec.eq_of_getLsbD_eq
  intro i hi
  have h := byteOf_byteReverse (byteReverse x) ⟨i / 8, by omega⟩
  have h' := byteOf_byteReverse x ⟨7 - i / 8, by omega⟩
  have e := congrArg (fun b : Byte => b.getLsbD (i % 8)) h
  have e' := congrArg (fun b : Byte => b.getLsbD (i % 8)) h'
  simp only [byteOf_getLsbD] at e e'
  have h8 : i % 8 < 8 := Nat.mod_lt _ (by omega)
  have h1 : 8 * (i / 8) + i % 8 = i := by omega
  have h2 : 7 - (7 - i / 8) = i / 8 := by omega
  simp only [h8, decide_true, Bool.true_and, h1] at e
  simp only [h8, decide_true, Bool.true_and, h2, h1] at e'
  rw [e, e']

/-- The word of the half of a 64-bit word is that word (spec R8). -/
theorem wordOf_halfOfWord (w : Nat) (h : w < 2 ^ 64) : wordOf (halfOfWord w) = w := by
  simp only [wordOf, halfOfWord, byteReverse_byteReverse, BitVec.toNat_ofNat]
  exact Nat.mod_eq_of_lt h

/-- The halves of a block built from halves (spec R22). -/
@[simp] theorem lowHalf_blockOf (a b : Half) : lowHalf (blockOf a b) = a := by
  apply BitVec.eq_of_getLsbD_eq
  intro i hi
  simp [lowHalf, blockOf, hi, show i < 128 by omega]

/-- The halves of a block built from halves (spec R22). -/
@[simp] theorem highHalf_blockOf (a b : Half) : highHalf (blockOf a b) = b := by
  apply BitVec.eq_of_getLsbD_eq
  intro i hi
  simp [highHalf, blockOf, show 64 + i < 128 by omega]
  exact fun _ => hi

/-- A block is the block of its halves (spec R22). -/
theorem blockOf_halves (b : Block) : blockOf (lowHalf b) (highHalf b) = b := by
  apply BitVec.eq_of_getLsbD_eq
  intro i hi
  by_cases h : i < 64
  · simp [lowHalf, blockOf, h, hi]
  · have h1 : i - 64 < 64 := by omega
    have h2 : 64 + (i - 64) = i := by omega
    simp [lowHalf, highHalf, blockOf, h, h1, h2, hi]

/-- Bit `i` of a block built from halves (spec R22). -/
theorem blockOf_getLsbD (a b : Half) (i : Nat) (hi : i < 128) :
    (blockOf a b).getLsbD i = if i < 64 then a.getLsbD i else b.getLsbD (i - 64) := by
  by_cases h : i < 64
  · simp [blockOf, h, hi]
  · simp [blockOf, h, hi, BitVec.getLsbD_of_ge a i (by omega)]

end Sys2Proof.Machine
end

