-- ==== Sys2Proof/Laws/Search.lean ====
section
/-! SUPPORT. "least x in S minimising f(x)" is the first minimum (R10), and what follows for quantised fields. -/

namespace Sys2Proof.Machine

variable {α : Type}

/-- The loop answers its best element so far or one of the list. -/
theorem leastByLoop_mem (f : α → Nat) (xs : List α) : ∀ b, leastByLoop f b (f b) xs ∈ b :: xs := by
  induction xs with
  | nil => intro b; simp [leastByLoop]
  | cons x xs ih =>
    intro b
    unfold leastByLoop
    split
    · exact List.mem_cons_of_mem b (ih x)
    · rcases List.mem_cons.mp (ih b) with h | h
      · simp [h]
      · exact List.mem_cons_of_mem b (List.mem_cons_of_mem x h)

/-- The loop's answer is no worse than its best so far and every element of the list. -/
theorem leastByLoop_le (f : α → Nat) (xs : List α) :
    ∀ b, ∀ x ∈ b :: xs, f (leastByLoop f b (f b) xs) ≤ f x := by
  induction xs with
  | nil => intro b x hx; simp only [List.mem_singleton] at hx; simp [leastByLoop, hx]
  | cons y ys ih =>
    intro b x hx
    unfold leastByLoop
    split
    · rename_i h
      rcases List.mem_cons.mp hx with rfl | hx
      · exact le_of_lt (lt_of_le_of_lt (ih y y (by simp)) h)
      · exact ih y x hx
    · rename_i h
      rcases List.mem_cons.mp hx with rfl | hx
      · exact ih x x (by simp)
      · rcases List.mem_cons.mp hx with rfl | hx
        · exact le_trans (ih b b (by simp)) (Nat.le_of_not_lt h)
        · exact ih b x (List.mem_cons_of_mem b hx)

/-- The least element is one of the set (spec R10). -/
theorem leastBy_mem (f : α → Nat) (d : α) {xs : List α} (h : xs ≠ []) : leastBy f d xs ∈ xs := by
  cases xs with
  | nil => exact absurd rfl h
  | cons x xs => exact leastByLoop_mem f xs x

/-- The least element minimises `f` (spec R10). -/
theorem leastBy_le (f : α → Nat) (d : α) {xs : List α} {x : α} (h : x ∈ xs) : f (leastBy f d xs) ≤ f x := by
  cases xs with
  | nil => cases h
  | cons y ys => exact leastByLoop_le f ys y x h

/-- The loop keeps its best so far against a tie: every element the answer comes after is strictly worse. -/
theorem leastByLoop_first (f : α → Nat) (xs : List α) : ∀ b, ∃ pre post,
    b :: xs = pre ++ leastByLoop f b (f b) xs :: post ∧ ∀ x ∈ pre, f (leastByLoop f b (f b) xs) < f x := by
  induction xs with
  | nil => intro b; exact ⟨[], [], by simp [leastByLoop]⟩
  | cons y ys ih =>
    intro b
    unfold leastByLoop
    split
    · rename_i h
      obtain ⟨pre, post, he, hp⟩ := ih y
      refine ⟨b :: pre, post, by simp [← he], fun x hx => ?_⟩
      rcases List.mem_cons.mp hx with rfl | hx
      · exact lt_of_le_of_lt (leastByLoop_le f ys y y (by simp)) h
      · exact hp x hx
    · rename_i h
      obtain ⟨pre, post, he, hp⟩ := ih b
      cases pre with
      | nil =>
        simp only [List.nil_append, List.cons.injEq] at he
        exact ⟨[], y :: ys, by simp [← he.1], by simp⟩
      | cons c pre =>
        simp only [List.cons_append, List.cons.injEq] at he
        obtain ⟨rfl, he⟩ := he
        refine ⟨b :: y :: pre, post, by simp [← he], fun x hx => ?_⟩
        rcases List.mem_cons.mp hx with rfl | hx
        · exact hp x (by simp)
        · rcases List.mem_cons.mp hx with rfl | hx
          · exact lt_of_lt_of_le (hp b (by simp)) (Nat.le_of_not_lt h)
          · exact hp x (List.mem_cons_of_mem b hx)

/-- The least element is the first in the stated order at which `f` takes its minimum (spec R10). -/
theorem leastBy_first (f : α → Nat) (d : α) {xs : List α} (h : xs ≠ []) : ∃ pre post,
    xs = pre ++ leastBy f d xs :: post ∧ ∀ x ∈ pre, f (leastBy f d xs) < f x := by
  cases xs with
  | nil => exact absurd rfl h
  | cons x xs => exact leastByLoop_first f xs x

/-- `least q in 0..n-1` is below `n` (spec R10). -/
theorem leastBelow_lt {n : Nat} (f : Nat → Nat) (h : 0 < n) : leastBelow n f < n :=
  List.mem_range.mp (leastBy_mem f 0 (by simp; omega))

/-- `least q in 0..n-1` minimises `f` (spec R10). -/
theorem leastBelow_le {n q : Nat} (f : Nat → Nat) (h : q < n) : f (leastBelow n f) ≤ f q :=
  leastBy_le f 0 (List.mem_range.mpr h)

/-- A quantised value fits its field (spec R10). -/
theorem quant_lt (n c : Nat) : quant n c < 2 ^ n := leastBelow_lt _ (Nat.two_pow_pos n)

/-- A value quantised with a p-bit fits its field (spec R301). -/
theorem quantP_lt (n v p : Nat) : quantP n v p < 2 ^ n := leastBelow_lt _ (Nat.two_pow_pos n)

/-- A free result taken through a contract either is the reference result or meets the contract (log 10). -/
theorem freeOr_cases {contract : α → Bool} (free reference : α) :
    freeOr contract free reference = reference ∨ contract (freeOr contract free reference) = true := by
  unfold freeOr
  split
  · exact .inr (by assumption)
  · exact .inl rfl

/-- Interpolating from the other end at the complementary weight gives the same value (spec R150, R297). -/
theorem interp_symm (lo hi w : Nat) (h : w ≤ 64) : interp hi lo (64 - w) = interp lo hi w := by
  have h1 : 64 - (64 - w) = w := by omega
  simp only [interp, h1]
  rw [Nat.add_comm (hi * w)]

end Sys2Proof.Machine
end

