-- ==== Sys2Proof/Laws/Etc.lean ====
section
/-! SUPPORT. The reconstruction functions of the ETC formats: sixteen opaque pixels, an ETC2_RGBA block by its halves;
and what an encoder of either instance answers. -/

namespace Sys2Proof.Machine

@[simp] theorem rgbOf_pxOf (r g b a : Nat) : rgbOf (pxOf [r, g, b] a) = [r, g, b] := rfl

@[simp] theorem pxOf_a (c : Colour) (a : Nat) : (pxOf c a).a = a := rfl

@[simp] theorem etc1Pixel_a (w : Nat) (base : Nat → Colour) (i : Nat) : (etc1Pixel w base i).a = 255 := rfl

@[simp] theorem paintPixel_a (w : Nat) (paint : List Colour) (i : Nat) : (paintPixel w paint i).a = 255 := rfl

@[simp] theorem planarPixel_a (w i : Nat) : (planarPixel w i).a = 255 := rfl

/-- A colour block decodes to alpha 255 in every mode (spec R179). -/
@[simp] theorem etcPixel_a (w i : Nat) : (etcPixel w i).a = 255 := by
  unfold etcPixel
  split <;> simp

@[simp] theorem etcDecode_length (h : Half) : (etcDecode h).length = 16 := by simp [etcDecode]

@[simp] theorem eac8Decode_length (h : Half) : (eac8Decode h).length = 16 := by simp [eac8Decode]

/-- Pixel `i` of a colour block. -/
theorem etcDecode_getElem (h : Half) (i : Nat) (hi : i < 16) :
    (etcDecode h)[i]'(by simpa using hi) = etcPixel (wordOf h) i := by simp [etcDecode]

/-- Pixel `i` of an ETC2_RGBA block: the colour of the second half, the alpha of the first (spec R183). -/
theorem etc2RgbaDecode_getElem (a c : Half) (i : Nat) (hi : i < 16) :
    (etc2RgbaDecode (blockOf a c))[i]'(by simpa [etc2RgbaDecode] using hi) =
      { etcPixel (wordOf c) i with a := (eac8Decode a)[i]'(by simpa using hi) } := by
  simp [etc2RgbaDecode, etcDecode_getElem _ _ hi]

/-- With the halves' alpha values all `v`, the block is its colours at alpha `v` (spec R183). -/
theorem etc2RgbaDecode_solid (a c : Half) (v : Nat) (h : eac8Decode a = List.replicate 16 v) :
    etc2RgbaDecode (blockOf a c) = (etcDecode c).map fun q => { q with a := v } := by
  unfold etc2RgbaDecode
  rw [lowHalf_blockOf, highHalf_blockOf, h]
  refine List.ext_getElem (by simp) fun i h1 h2 => ?_
  simp only [List.getElem_zipWith, List.getElem_map, List.getElem_replicate]

/-- An ETC1 block is the reference's or meets the contract (spec R224, log 10). -/
theorem encEtc1_cases (k : EncoderKind) (p : List Colour) :
    encEtc1 k p = refEncEtc1 p ∨ etc1Contract p (encEtc1 k p) = true :=
  match k with
  | .reference => .inl rfl
  | .abstract => freeOr_cases _ _

/-- A BC1 colour block is the reference's or meets the contract (spec R261, log 10). -/
theorem encBc1_cases (k : EncoderKind) (idx3 : Idx3Alpha) (fmt : Fmt) (p : List Colour) (dith : Bool) :
    encBc1 k idx3 fmt p dith = refEncBc1 p dith ∨
      bc1Contract idx3 fmt p dith (encBc1 k idx3 fmt p dith) = true :=
  match k with
  | .reference => .inl rfl
  | .abstract => freeOr_cases _ _

end Sys2Proof.Machine
end

