-- ==== Sys2Proof/Laws/State.lean ====
section
/-! SUPPORT. One lemma per field per update, true by `rfl`, so that no later proof unfolds a record update. -/

namespace Sys2Proof.Machine

variable (s : State) (l : Lane) (c : Cause) (h : Half) (b : Block) (px : List Px) (bits : BitVec 8) (w n : Nat)

@[simp] theorem putLane_lanes : (putLane s l).lanes = s.lanes.set s.cur l := rfl
@[simp] theorem putLane_bc7Ready : (putLane s l).bc7Ready = s.bc7Ready := rfl
@[simp] theorem putLane_opt1 : (putLane s l).opt1 = s.opt1 := rfl
@[simp] theorem putLane_opt7 : (putLane s l).opt7 = s.opt7 := rfl
@[simp] theorem putLane_params : (putLane s l).params = s.params := rfl
@[simp] theorem putLane_cur : (putLane s l).cur = s.cur := rfl
@[simp] theorem putLane_pending : (putLane s l).pending = s.pending := rfl
@[simp] theorem putLane_response : (putLane s l).response = s.response := rfl

@[simp] theorem raiseFault_lanes : (raiseFault s l c).lanes = s.lanes.set s.cur (laneFaulted l c) := rfl
@[simp] theorem raiseFault_bc7Ready : (raiseFault s l c).bc7Ready = s.bc7Ready := rfl
@[simp] theorem raiseFault_opt1 : (raiseFault s l c).opt1 = s.opt1 := rfl
@[simp] theorem raiseFault_opt7 : (raiseFault s l c).opt7 = s.opt7 := rfl
@[simp] theorem raiseFault_params : (raiseFault s l c).params = s.params := rfl
@[simp] theorem raiseFault_cur : (raiseFault s l c).cur = s.cur := rfl
@[simp] theorem raiseFault_pending : (raiseFault s l c).pending = s.pending := rfl
@[simp] theorem raiseFault_response : (raiseFault s l c).response = s.response := rfl

@[simp] theorem laneFaulted_tile : (laneFaulted l c).tile = l.tile := rfl
@[simp] theorem laneFaulted_blk : (laneFaulted l c).blk = l.blk := rfl
@[simp] theorem laneFaulted_arg : (laneFaulted l c).arg = l.arg := rfl
@[simp] theorem laneFaulted_res : (laneFaulted l c).res = l.res := rfl
@[simp] theorem laneFaulted_bitpos : (laneFaulted l c).bitpos = l.bitpos := rfl
@[simp] theorem laneFaulted_ctrl : (laneFaulted l c).ctrl = l.ctrl := rfl
@[simp] theorem laneFaulted_w1 : (laneFaulted l c).w1 = l.w1 := rfl
@[simp] theorem laneFaulted_w5 : (laneFaulted l c).w5 = l.w5 := rfl
@[simp] theorem laneFaulted_w6 : (laneFaulted l c).w6 = l.w6 := rfl
@[simp] theorem laneFaulted_w7 : (laneFaulted l c).w7 = l.w7 := rfl
@[simp] theorem laneFaulted_fault : (laneFaulted l c).fault = true := rfl
@[simp] theorem laneFaulted_cause : (laneFaulted l c).cause = causeCode c := rfl

@[simp] theorem laneWithHalf_tile : (laneWithHalf l h).tile = l.tile := rfl
@[simp] theorem laneWithHalf_blk : (laneWithHalf l h).blk = blockOf h (highHalf l.blk) := rfl
@[simp] theorem laneWithHalf_arg : (laneWithHalf l h).arg = l.arg := rfl
@[simp] theorem laneWithHalf_res : (laneWithHalf l h).res = l.res := rfl
@[simp] theorem laneWithHalf_bitpos : (laneWithHalf l h).bitpos = 64#8 := rfl
@[simp] theorem laneWithHalf_ctrl : (laneWithHalf l h).ctrl = l.ctrl := rfl
@[simp] theorem laneWithHalf_w1 : (laneWithHalf l h).w1 = l.w1 := rfl
@[simp] theorem laneWithHalf_w5 : (laneWithHalf l h).w5 = l.w5 := rfl
@[simp] theorem laneWithHalf_w6 : (laneWithHalf l h).w6 = l.w6 := rfl
@[simp] theorem laneWithHalf_w7 : (laneWithHalf l h).w7 = l.w7 := rfl
@[simp] theorem laneWithHalf_fault : (laneWithHalf l h).fault = l.fault := rfl
@[simp] theorem laneWithHalf_cause : (laneWithHalf l h).cause = l.cause := rfl

@[simp] theorem laneWithBlock_tile : (laneWithBlock l b).tile = l.tile := rfl
@[simp] theorem laneWithBlock_blk : (laneWithBlock l b).blk = b := rfl
@[simp] theorem laneWithBlock_arg : (laneWithBlock l b).arg = l.arg := rfl
@[simp] theorem laneWithBlock_res : (laneWithBlock l b).res = l.res := rfl
@[simp] theorem laneWithBlock_bitpos : (laneWithBlock l b).bitpos = 128#8 := rfl
@[simp] theorem laneWithBlock_ctrl : (laneWithBlock l b).ctrl = l.ctrl := rfl
@[simp] theorem laneWithBlock_w1 : (laneWithBlock l b).w1 = l.w1 := rfl
@[simp] theorem laneWithBlock_w5 : (laneWithBlock l b).w5 = l.w5 := rfl
@[simp] theorem laneWithBlock_w6 : (laneWithBlock l b).w6 = l.w6 := rfl
@[simp] theorem laneWithBlock_w7 : (laneWithBlock l b).w7 = l.w7 := rfl
@[simp] theorem laneWithBlock_fault : (laneWithBlock l b).fault = l.fault := rfl
@[simp] theorem laneWithBlock_cause : (laneWithBlock l b).cause = l.cause := rfl

@[simp] theorem laneWithTile_tile : (laneWithTile l px bits).tile = tileOfPixels px := by simp only [laneWithTile]
@[simp] theorem laneWithTile_blk : (laneWithTile l px bits).blk = l.blk := by simp only [laneWithTile]
@[simp] theorem laneWithTile_arg : (laneWithTile l px bits).arg = l.arg := by simp only [laneWithTile]
@[simp] theorem laneWithTile_res : (laneWithTile l px bits).res = l.res := by simp only [laneWithTile]
@[simp] theorem laneWithTile_bitpos : (laneWithTile l px bits).bitpos = bits := by simp only [laneWithTile]
@[simp] theorem laneWithTile_ctrl : (laneWithTile l px bits).ctrl = l.ctrl := by simp only [laneWithTile]
@[simp] theorem laneWithTile_w1 : (laneWithTile l px bits).w1 = l.w1 := by simp only [laneWithTile]
@[simp] theorem laneWithTile_w5 : (laneWithTile l px bits).w5 = l.w5 := by simp only [laneWithTile]
@[simp] theorem laneWithTile_w6 : (laneWithTile l px bits).w6 = l.w6 := by simp only [laneWithTile]
@[simp] theorem laneWithTile_w7 : (laneWithTile l px bits).w7 = l.w7 := by simp only [laneWithTile]
@[simp] theorem laneWithTile_fault : (laneWithTile l px bits).fault = l.fault := by simp only [laneWithTile]
@[simp] theorem laneWithTile_cause : (laneWithTile l px bits).cause = l.cause := by simp only [laneWithTile]

@[simp] theorem laneSetbits_tile : (laneSetbits l w).tile = l.tile := rfl
@[simp] theorem laneSetbits_blk : (laneSetbits l w).blk = setField l.blk l.bitpos.toNat w l.arg.toNat := rfl
@[simp] theorem laneSetbits_arg : (laneSetbits l w).arg = l.arg := rfl
@[simp] theorem laneSetbits_res : (laneSetbits l w).res = l.res := rfl
@[simp] theorem laneSetbits_bitpos : (laneSetbits l w).bitpos = BitVec.ofNat 8 (l.bitpos.toNat + w) := rfl
@[simp] theorem laneSetbits_ctrl : (laneSetbits l w).ctrl = l.ctrl := rfl
@[simp] theorem laneSetbits_w1 : (laneSetbits l w).w1 = l.w1 := rfl
@[simp] theorem laneSetbits_w5 : (laneSetbits l w).w5 = l.w5 := rfl
@[simp] theorem laneSetbits_w6 : (laneSetbits l w).w6 = l.w6 := rfl
@[simp] theorem laneSetbits_w7 : (laneSetbits l w).w7 = l.w7 := rfl
@[simp] theorem laneSetbits_fault : (laneSetbits l w).fault = l.fault := rfl
@[simp] theorem laneSetbits_cause : (laneSetbits l w).cause = l.cause := rfl

@[simp] theorem laneGetbits_tile : (laneGetbits l w).tile = l.tile := rfl
@[simp] theorem laneGetbits_blk : (laneGetbits l w).blk = l.blk := rfl
@[simp] theorem laneGetbits_arg : (laneGetbits l w).arg = l.arg := rfl
@[simp] theorem laneGetbits_res : (laneGetbits l w).res = BitVec.ofNat 64 (getField l.blk l.bitpos.toNat w) := rfl
@[simp] theorem laneGetbits_bitpos : (laneGetbits l w).bitpos = BitVec.ofNat 8 (l.bitpos.toNat + w) := rfl
@[simp] theorem laneGetbits_ctrl : (laneGetbits l w).ctrl = l.ctrl := rfl
@[simp] theorem laneGetbits_w1 : (laneGetbits l w).w1 = l.w1 := rfl
@[simp] theorem laneGetbits_w5 : (laneGetbits l w).w5 = l.w5 := rfl
@[simp] theorem laneGetbits_w6 : (laneGetbits l w).w6 = l.w6 := rfl
@[simp] theorem laneGetbits_w7 : (laneGetbits l w).w7 = l.w7 := rfl
@[simp] theorem laneGetbits_fault : (laneGetbits l w).fault = l.fault := rfl
@[simp] theorem laneGetbits_cause : (laneGetbits l w).cause = l.cause := rfl

@[simp] theorem resetDevice_lanes : (resetDevice s).lanes = List.replicate s.lanes.length Lane.reset := rfl
@[simp] theorem resetDevice_bc7Ready : (resetDevice s).bc7Ready = false := rfl
@[simp] theorem resetDevice_params : (resetDevice s).params = s.params := rfl
@[simp] theorem resetDevice_cur : (resetDevice s).cur = 0 := rfl
@[simp] theorem resetDevice_pending : (resetDevice s).pending = s.pending := rfl
@[simp] theorem resetDevice_response : (resetDevice s).response = .ack := rfl

@[simp] theorem withFetchWord_lanes : (s.withFetchWord n w).lanes = s.lanes := rfl
@[simp] theorem withFetchWord_bc7Ready : (s.withFetchWord n w).bc7Ready = s.bc7Ready := rfl
@[simp] theorem withFetchWord_opt1 : (s.withFetchWord n w).opt1 = s.opt1 := rfl
@[simp] theorem withFetchWord_opt7 : (s.withFetchWord n w).opt7 = s.opt7 := rfl
@[simp] theorem withFetchWord_params : (s.withFetchWord n w).params = s.params := rfl
@[simp] theorem withFetchWord_cur : (s.withFetchWord n w).cur = s.cur := rfl
@[simp] theorem withFetchWord_response : (s.withFetchWord n w).response = s.response := rfl
@[simp] theorem withFetchWord_pending : (s.withFetchWord n w).pending = commandTxn s.params s.cur (BitVec.ofNat 32 (w % 2 ^ n)) :: s.pending := rfl

variable (k size : Nat) (v : BitVec 64)

@[simp] theorem regWrite_tile : regWrite l .tile k size v = { l with tile := tileWrite l.tile k size v } := by simp only [regWrite]
@[simp] theorem regWrite_blk : regWrite l .blk k size v = { l with blk := setField l.blk (8 * k) (8 * size) v.toNat } := by simp only [regWrite]
@[simp] theorem regWrite_arg : regWrite l .arg k size v = { l with arg := setField l.arg (8 * k) (8 * size) v.toNat } := by simp only [regWrite]
@[simp] theorem regWrite_bitpos : regWrite l .bitpos k size v = { l with bitpos := legalBitpos (v.setWidth 32) } := by simp only [regWrite]
@[simp] theorem regWrite_ctrl : regWrite l .ctrl k size v = { l with ctrl := legalCtrl (v.setWidth 32) } := by simp only [regWrite]
@[simp] theorem regWrite_w1 : regWrite l .w1 k size v = { l with w1 := v.setWidth 16 } := by simp only [regWrite]
@[simp] theorem regWrite_w5 : regWrite l .w5 k size v = { l with w5 := v.setWidth 16 } := by simp only [regWrite]
@[simp] theorem regWrite_w6 : regWrite l .w6 k size v = { l with w6 := v.setWidth 16 } := by simp only [regWrite]
@[simp] theorem regWrite_w7 : regWrite l .w7 k size v = { l with w7 := v.setWidth 16 } := by simp only [regWrite]
@[simp] theorem regWrite_res : regWrite l .res k size v = l := by simp only [regWrite]
@[simp] theorem regWrite_status : regWrite l .status k size v = l := by simp only [regWrite]
@[simp] theorem regWrite_cmd : regWrite l .cmd k size v = l := by simp only [regWrite]
@[simp] theorem regWrite_id : regWrite l .id k size v = l := by simp only [regWrite]
@[simp] theorem regWrite_reserved : regWrite l .reserved k size v = l := by simp only [regWrite]

end Sys2Proof.Machine
end

