-- ==== Sys2Proof/Laws/Ops.lean ====
section
/-! SUPPORT. What the shared operations of Machine/Ops.lean can do, each said once. -/

namespace Sys2Proof.Machine

/-- The executing lane exists. -/
theorem cur_lt {s : State} {l : Lane} (h : curLane s = some l) : s.cur < s.lanes.length :=
  (List.getElem?_eq_some_iff.mp h).1

/-- The executing lane after it is replaced. -/
theorem curLane_putLane {s : State} {l l' : Lane} (h : curLane s = some l) : curLane (putLane s l') = some l' := by
  have := cur_lt h
  simp [curLane, this]

/-- Replacing the executing lane leaves every other lane alone (spec R38). -/
theorem putLane_other (s : State) (l : Lane) (k : Nat) (hk : k ≠ s.cur) : (putLane s l).lanes[k]? = s.lanes[k]? := by
  simp [List.getElem?_set_ne (Ne.symm hk)]

/-- Putting a lane back changes nothing. -/
theorem putLane_self {s : State} {l : Lane} (h : curLane s = some l) : putLane s l = s := by
  have h' : s.lanes.set s.cur l = s.lanes := by
    obtain ⟨hlt, he⟩ := List.getElem?_eq_some_iff.mp h
    rw [← he, List.set_getElem_self]
  simp only [putLane, h']

/-- Only the last of two replacements stays. -/
theorem putLane_putLane (s : State) (l l' : Lane) : putLane (putLane s l) l' = putLane s l' := by
  simp [putLane]

/-- Everything the frame of a command can do (spec R330). -/
theorem runCommand_cases (s : State) (body : Lane → State) :
    (curLane s = none ∧ runCommand s body = .fault .outsideWindows) ∨
    (∃ l, curLane s = some l ∧ l.fault = true ∧ runCommand s body = .next s) ∨
    (∃ l, Running s l ∧ runCommand s body = .next (body l)) := by
  unfold runCommand Running
  cases h : curLane s with
  | none => simp
  | some l => cases hf : l.fault <;> simp [hf]

/-- On a running lane a command does what its body says (spec R330). -/
theorem runCommand_running {s : State} {l : Lane} (h : Running s l) (body : Lane → State) :
    runCommand s body = .next (body l) := by
  simp [runCommand, h.1, h.2]

/-- On a halted lane a command does nothing (spec R330, R381). -/
theorem runCommand_halted {s : State} {l : Lane} (h : curLane s = some l) (hf : l.fault = true) (body : Lane → State) :
    runCommand s body = .next s := by
  simp [runCommand, h, hf]

/-- If a command gives a next state, the lane exists, and the state is the old one on a halted lane and the
body's on a running lane (spec R330). -/
theorem runCommand_next {s t : State} {body : Lane → State} (h : runCommand s body = .next t) :
    ∃ l, curLane s = some l ∧ t = if l.fault then s else body l := by
  rcases runCommand_cases s body with ⟨-, e⟩ | ⟨l, hl, hf, e⟩ | ⟨l, hl, e⟩ <;> rw [e] at h
  · cases h
  · exact ⟨l, hl, by simpa [hf] using h.symm⟩
  · exact ⟨l, hl.1, by simpa [hl.2] using h.symm⟩

/-- An access that goes to a row has a legal size, is aligned, and lies in the row (spec R51, R54). -/
theorem accessRow_some {off size : Nat} {row : WinRow} (h : accessRow off size = some row) :
    row ∈ windowMap ∧ (size = 1 ∨ size = 2 ∨ size = 4 ∨ size = 8) ∧ off % size = 0 ∧ row.start ≤ off ∧
      off + size ≤ row.start + row.bytes ∧ (row.anySize = true ∨ size = 4) := by
  unfold accessRow at h
  split at h
  · rename_i hs
    have hp := List.find?_some h
    simp only [rowServes, Bool.and_eq_true, Bool.or_eq_true, decide_eq_true_eq, beq_iff_eq] at hp
    exact ⟨List.mem_of_find?_eq_some h, hs.1, hs.2, hp.1.1, hp.1.2, hp.2⟩
  · cases h

/-- A bus address of a lane's window is found there (spec R38, R50). -/
theorem locate_busAddr (p : Params) (lanes k off : Nat) (hk : k < lanes) (ho : off < 256) :
    locate p lanes (busAddr p k off) = some (k, off) := by
  have h1 : windowBase p + 256 * k + off < windowBase p + 256 * lanes := by omega
  have h2 : windowBase p ≤ windowBase p + 256 * k + off := by omega
  have h3 : windowBase p + 256 * k + off - windowBase p = 256 * k + off := by omega
  simp only [locate, busAddr, h1, h2, h3, and_self, if_true]
  congr 2 <;> omega

/-- An address found in a window is that lane's bus address of the offset (spec R38, R50). -/
theorem locate_some {p : Params} {lanes addr k off : Nat} (h : locate p lanes addr = some (k, off)) :
    k < lanes ∧ off < 256 ∧ addr = busAddr p k off := by
  unfold locate at h
  split at h
  · simp only [Option.some.injEq, Prod.mk.injEq] at h
    unfold busAddr
    omega
  · cases h

/-- What serving a write comes to: the state stays but for lane `k`, `cur` and the answer (spec R54, R55). -/
theorem serveWrite_eq (s : State) (k : Nat) (l : Lane) (off size : Nat) (v : BitVec 64) :
    serveWrite s k l off size v =
      match windowWrite l off size v with
      | some l' => { s with lanes := s.lanes.set k l', cur := k, response := .ack }
      | none => { s with cur := k, response := .error } := rfl

/-- Everything a step that gives a next state can do: nothing to serve; reset; a read; a write that is no command;
a write of a command word, which is issued (spec R14, R55, R58). -/
theorem step_cases {s t : State} (h : step s = .next t) :
    (s.pending = [] ∧ t = s) ∨
    ∃ rest, (s.pending = .reset :: rest ∧ t = resetDevice { s with pending := rest }) ∨
      (∃ addr size k off l, s.pending = .read addr size :: rest ∧
        locate s.params s.lanes.length addr = some (k, off) ∧ s.lanes[k]? = some l ∧
        t = serveRead { s with pending := rest } k l off size) ∨
      (∃ addr size v k off l, s.pending = .write addr size v :: rest ∧
        locate s.params s.lanes.length addr = some (k, off) ∧ s.lanes[k]? = some l ∧
        ((¬(off = cmdOffset ∧ size = 4) ∧ t = serveWrite { s with pending := rest } k l off size v) ∨
          (off = cmdOffset ∧ size = 4 ∧
            issue (v.setWidth 32) { s with pending := rest, cur := k, response := .ack } = .next t))) := by
  unfold step takeInput at h
  cases hp : s.pending with
  | nil => simp [hp] at h; exact .inl ⟨rfl, h.symm⟩
  | cons x rest =>
    refine .inr ⟨rest, ?_⟩
    cases x with
    | reset => simp [hp, serve] at h; exact .inl ⟨rfl, h.symm⟩
    | read addr size =>
      rcases hl : locate s.params s.lanes.length addr with - | ⟨k, off⟩
      · simp [hp, serve, hl] at h
      · rcases hk : s.lanes[k]? with - | l
        · simp [hp, serve, hl, hk] at h
        · simp only [hp, serve, hl, hk] at h
          cases h
          exact .inr (.inl ⟨addr, size, k, off, l, rfl, hl, hk, rfl⟩)
    | write addr size v =>
      rcases hl : locate s.params s.lanes.length addr with - | ⟨k, off⟩
      · simp [hp, serve, hl] at h
      · rcases hk : s.lanes[k]? with - | l
        · simp [hp, serve, hl, hk] at h
        · by_cases hc : off = cmdOffset ∧ size = 4
          · simp only [hp, serve, hl, hk, hc, and_self, if_true] at h
            exact .inr (.inr ⟨addr, size, v, k, off, l, rfl, hl, hk, .inr ⟨hc.1, hc.2, h⟩⟩)
          · simp only [hp, serve, hl, hk, hc, if_false] at h
            cases h
            exact .inr (.inr ⟨addr, size, v, k, off, l, rfl, hl, hk, .inl ⟨hc, rfl⟩⟩)

end Sys2Proof.Machine
end

