-- ==== Sys2Proof/Laws/Exec.lean ====
section
/-! SUPPORT. Everything a command can do, said once over all commands. -/

namespace Sys2Proof.Machine

/-- Everything a command can do on a running lane: nothing; raise a fault; the first `INIT.BC7`; or write `TILE`,
`BLK`, `RES` and `BITPOS` of its lane, a legal `BITPOS` staying legal (spec R330, R344, R290, R25). -/
theorem exec_running_cases (i : Instr) {s : State} {l : Lane} (h : Running s l) : ∃ t, exec i s = .next t ∧
    (t = s ∨ (∃ c, t = raiseFault s l c) ∨
      (i = .initBc7 ∧ s.bc7Ready = false ∧ t = { s with opt1 := opt1Table, opt7 := opt7Table, bc7Ready := true }) ∨
      ∃ (tile : TileBuf) (blk : Block) (res : BitVec 64) (bp : BitVec 8),
        t = putLane s { l with tile := tile, blk := blk, res := res, bitpos := bp } ∧
          (l.bitpos.toNat ≤ 128 → bp.toNat ≤ 128)) := by
  have low : (64#8).toNat ≤ 128 := by decide
  have full : (128#8).toNat ≤ 128 := by decide
  cases i with
  | nop => exact ⟨_, runCommand_running h _, .inl rfl⟩
  | clrblk => exact ⟨_, runCommand_running h _, .inr (.inr (.inr ⟨_, _, _, _, rfl, fun _ => by decide⟩))⟩
  | setbits w =>
    refine ⟨_, runCommand_running h _, ?_⟩
    split
    · exact .inr (.inl ⟨_, rfl⟩)
    split
    · exact .inr (.inl ⟨_, rfl⟩)
    split
    · exact .inr (.inl ⟨_, rfl⟩)
    rename_i hb _
    refine .inr (.inr (.inr ⟨_, _, _, _, rfl, fun _ => ?_⟩))
    simp only [pastBlockEnd, decide_eq_true_eq] at hb
    simp only [BitVec.toNat_ofNat]
    omega
  | getbits w =>
    refine ⟨_, runCommand_running h _, ?_⟩
    split
    · exact .inr (.inl ⟨_, rfl⟩)
    split
    · exact .inr (.inl ⟨_, rfl⟩)
    rename_i hb
    refine .inr (.inr (.inr ⟨_, _, _, _, rfl, fun _ => ?_⟩))
    simp only [pastBlockEnd, decide_eq_true_eq] at hb
    simp only [BitVec.toNat_ofNat]
    omega
  | chksize n =>
    refine ⟨_, runCommand_running h _, ?_⟩
    split
    · exact .inr (.inl ⟨_, rfl⟩)
    · exact .inl rfl
  | initBc7 =>
    refine ⟨_, runCommand_running h _, ?_⟩
    split
    · exact .inl rfl
    · exact .inr (.inr (.inl ⟨rfl, by simp_all, rfl⟩))
  | encBc7 =>
    refine ⟨_, runCommand_running h _, ?_⟩
    split
    · exact .inr (.inr (.inr ⟨_, _, _, _, rfl, fun _ => full⟩))
    · exact .inr (.inl ⟨_, rfl⟩)
  | fixboEtc => exact ⟨_, runCommand_running h _, .inr (.inr (.inr ⟨_, _, _, _, rfl, id⟩))⟩
  | bswap64 => exact ⟨_, runCommand_running h _, .inr (.inr (.inr ⟨_, _, _, _, rfl, id⟩))⟩
  | encEtc2Rgba => exact ⟨_, runCommand_running h _, .inr (.inr (.inr ⟨_, _, _, _, rfl, fun _ => full⟩))⟩
  | encEtc2Rg11 => exact ⟨_, runCommand_running h _, .inr (.inr (.inr ⟨_, _, _, _, rfl, fun _ => full⟩))⟩
  | encBc3 => exact ⟨_, runCommand_running h _, .inr (.inr (.inr ⟨_, _, _, _, rfl, fun _ => full⟩))⟩
  | encBc5 => exact ⟨_, runCommand_running h _, .inr (.inr (.inr ⟨_, _, _, _, rfl, fun _ => full⟩))⟩
  | decBc3 => exact ⟨_, runCommand_running h _, .inr (.inr (.inr ⟨_, _, _, _, rfl, fun _ => full⟩))⟩
  | decBc5 => exact ⟨_, runCommand_running h _, .inr (.inr (.inr ⟨_, _, _, _, rfl, fun _ => full⟩))⟩
  | decBc7 => exact ⟨_, runCommand_running h _, .inr (.inr (.inr ⟨_, _, _, _, rfl, fun _ => full⟩))⟩
  | encEtc1 => exact ⟨_, runCommand_running h _, .inr (.inr (.inr ⟨_, _, _, _, rfl, fun _ => low⟩))⟩
  | encEtc2Rgb => exact ⟨_, runCommand_running h _, .inr (.inr (.inr ⟨_, _, _, _, rfl, fun _ => low⟩))⟩
  | encEtc2R11 => exact ⟨_, runCommand_running h _, .inr (.inr (.inr ⟨_, _, _, _, rfl, fun _ => low⟩))⟩
  | encBc1 => exact ⟨_, runCommand_running h _, .inr (.inr (.inr ⟨_, _, _, _, rfl, fun _ => low⟩))⟩
  | encBc4 => exact ⟨_, runCommand_running h _, .inr (.inr (.inr ⟨_, _, _, _, rfl, fun _ => low⟩))⟩
  | decBc1 => exact ⟨_, runCommand_running h _, .inr (.inr (.inr ⟨_, _, _, _, rfl, fun _ => low⟩))⟩
  | decBc4 => exact ⟨_, runCommand_running h _, .inr (.inr (.inr ⟨_, _, _, _, rfl, fun _ => low⟩))⟩
/-- A command that gives a next state either ran on a running lane or found its lane halted (spec R330). -/
theorem exec_next {i : Instr} {s t : State} (h : exec i s = .next t) :
    ∃ l, curLane s = some l ∧ ((l.fault = true ∧ t = s) ∨ l.fault = false) := by
  have key : ∃ body, exec i s = runCommand s body := by cases i <;> exact ⟨_, rfl⟩
  obtain ⟨body, hb⟩ := key
  obtain ⟨l, hl, ht⟩ := runCommand_next (hb ▸ h)
  refine ⟨l, hl, ?_⟩
  cases hf : l.fault
  · exact .inr rfl
  · exact .inl ⟨rfl, by simpa [hf] using ht⟩

end Sys2Proof.Machine
end

