-- ==== Sys2Proof/Laws/Flags.lean ====
section
/-! SUPPORT. The legalisation of BITPOS and CTRL (R25, R26), field by field. -/

namespace Sys2Proof.Machine

/-- What a host write of `BITPOS` stores is at most 128 (spec R25). -/
theorem legalBitpos_le (v : BitVec 32) : (legalBitpos v).toNat ≤ 128 := by
  unfold legalBitpos
  split
  · decide
  · simp only [BitVec.toNat_setWidth]; omega

/-- The fields of `CTRL` built from its fields (spec R26). -/
theorem ctrlWord_fields (d t p : Bool) (e m : Nat) (he : e < 8) (hm : m < 128) :
    ctrlDither (ctrlWord d t p e m) = d ∧ ctrlEtc2Th (ctrlWord d t p e m) = t ∧
    ctrlPrune (ctrlWord d t p e m) = p ∧ ctrlEffort (ctrlWord d t p e m) = e ∧
    ctrlMaxPart (ctrlWord d t p e m) = m := by
  cases d <;> cases t <;> cases p <;> interval_cases e <;>
    (simp [ctrlDither, ctrlEtc2Th, ctrlPrune, ctrlEffort, ctrlMaxPart, ctrlWord, BitVec.getLsbD, Nat.testBit,
      Nat.shiftRight_eq_div_pow]; omega)

/-- A legalised effort fits its field (spec R26). -/
theorem legalEffort_lt (e : Nat) : legalEffort e < 8 := by unfold legalEffort; split <;> omega

/-- A legalised partition count fits its field (spec R26). -/
theorem legalMaxPart_lt (m : Nat) : legalMaxPart m < 128 := by unfold legalMaxPart; split <;> omega

/-- Legalising twice changes nothing more (spec R26). -/
theorem legalCtrl_legalCtrl (v : BitVec 32) : legalCtrl (legalCtrl v) = legalCtrl v := by
  obtain ⟨a, b, c, d, e⟩ := ctrlWord_fields (ctrlDither v) (ctrlEtc2Th v) (ctrlPrune v) _ _
    (legalEffort_lt (ctrlEffort v)) (legalMaxPart_lt (ctrlMaxPart v))
  unfold legalCtrl
  rw [a, b, c, d, e]
  congr 1
  · unfold legalEffort; repeat' split
    all_goals omega
  · unfold legalMaxPart; repeat' split
    all_goals omega

end Sys2Proof.Machine
end

