-- ==== Sys2Proof/Laws/PerInstr.lean ====
section
/-! SUPPORT. Statements made of every command, one lemma per constructor. -/

namespace Sys2Proof.Laws

/-- The word of a well-formed command matches a row of the opcode map under the row's mask, and that row builds the
command from the word's `WIDTH` (spec R71, R73). -/
def Encodable.Statement (i : Instr) : Prop :=
  i.wellFormed = true → ∃ row ∈ opcodeMap, rowMatches (encode i) row = true ∧ row.build (cmdWidth (encode i)) = i

/-- A command whose word is fixed whole. -/
theorem encodable_fixed (i : Instr) (pattern : CmdWord) (hm : fixedRow pattern i ∈ opcodeMap)
    (he : encode i = pattern) : Encodable.Statement i := by
  intro _
  exact ⟨fixedRow pattern i, hm, by
    have h1 : pattern &&& 0xFFFFFFFF#32 = pattern := BitVec.and_allOnes
    simp [rowMatches, fixedRow, he, h1], rfl⟩

/-- The `WIDTH` of a word built from fields that fit (spec R70, R76). -/
theorem cmdWidth_cmdWord (opc width : Nat) (ho : opc < 256) (hw : width < 256) :
    cmdWidth (cmdWord opc width) = width := by
  simp only [cmdWidth, cmdWord, BitVec.extractLsb'_toNat, BitVec.toNat_ofNat, Nat.shiftRight_eq_div_pow]
  omega

/-- The mask of a command with a width hides the width (spec R71). -/
theorem cmdWord_masked (opc width : Nat) (ho : opc < 256) (hw : width < 256) :
    cmdWord opc width &&& 0xFFFF00FF#32 = cmdWord opc 0 := by
  have key : ∀ a b : BitVec 8,
      (a.setWidth 32 ||| b.setWidth 32 <<< 8) &&& 0xFFFF00FF#32 = a.setWidth 32 := by
    intro a b
    ext i hi
    simp only [BitVec.getElem_and, BitVec.getElem_or, BitVec.getElem_shiftLeft]
    interval_cases i <;> simp
  have hsplit : cmdWord opc width
      = (BitVec.ofNat 8 opc).setWidth 32 ||| (BitVec.ofNat 8 width).setWidth 32 <<< 8 := by
    rw [← BitVec.add_eq_or_of_and_eq_zero]
    · apply BitVec.eq_of_toNat_eq
      simp only [cmdWord, BitVec.toNat_ofNat, BitVec.toNat_add, BitVec.toNat_setWidth, BitVec.toNat_shiftLeft,
        Nat.shiftLeft_eq]
      omega
    · ext i hi
      interval_cases i <;> simp
  rw [hsplit, key]
  apply BitVec.eq_of_toNat_eq
  simp only [cmdWord, BitVec.toNat_ofNat, BitVec.toNat_setWidth]
  omega

/-- A command with a width. -/
theorem encodable_width (i : Instr) (opc width : Nat) (build : Nat → Instr) (ho : opc < 256)
    (hm : widthRow (cmdWord opc 0) build ∈ opcodeMap) (he : encode i = cmdWord opc width) (hb : build width = i)
    (hw : i.wellFormed = widthFits width) : Encodable.Statement i := by
  intro h
  have hlt : width < 256 := by rw [hw] at h; simpa [widthFits] using h
  refine ⟨widthRow (cmdWord opc 0) build, hm, ?_, ?_⟩
  · simp [rowMatches, widthRow, he, cmdWord_masked opc width ho hlt]
  · simp [widthRow, he, cmdWidth_cmdWord opc width ho hlt, hb]

theorem Encodable.nop : Encodable.Statement .nop :=
  encodable_fixed _ 0x0#32 (by simp [opcodeMap]) rfl

theorem Encodable.clrblk : Encodable.Statement .clrblk :=
  encodable_fixed _ 0x1#32 (by simp [opcodeMap]) rfl

theorem Encodable.setbits (width : Nat) : Encodable.Statement (.setbits width) :=
  encodable_width _ 2 width .setbits (by decide) (by simp [opcodeMap, cmdWord]) rfl rfl rfl

theorem Encodable.getbits (width : Nat) : Encodable.Statement (.getbits width) :=
  encodable_width _ 3 width .getbits (by decide) (by simp [opcodeMap, cmdWord]) rfl rfl rfl

theorem Encodable.chksize (bits : Nat) : Encodable.Statement (.chksize bits) :=
  encodable_width _ 4 bits .chksize (by decide) (by simp [opcodeMap, cmdWord]) rfl rfl rfl

theorem Encodable.fixboEtc : Encodable.Statement .fixboEtc :=
  encodable_fixed _ 0x5#32 (by simp [opcodeMap]) rfl

theorem Encodable.bswap64 : Encodable.Statement .bswap64 :=
  encodable_fixed _ 0x6#32 (by simp [opcodeMap]) rfl

theorem Encodable.initBc7 : Encodable.Statement .initBc7 :=
  encodable_fixed _ 0x8#32 (by simp [opcodeMap]) rfl

theorem Encodable.encEtc1 : Encodable.Statement .encEtc1 :=
  encodable_fixed _ 0x10#32 (by simp [opcodeMap]) rfl

theorem Encodable.encEtc2Rgb : Encodable.Statement .encEtc2Rgb :=
  encodable_fixed _ 0x11#32 (by simp [opcodeMap]) rfl

theorem Encodable.encEtc2Rgba : Encodable.Statement .encEtc2Rgba :=
  encodable_fixed _ 0x12#32 (by simp [opcodeMap]) rfl

theorem Encodable.encEtc2R11 : Encodable.Statement .encEtc2R11 :=
  encodable_fixed _ 0x13#32 (by simp [opcodeMap]) rfl

theorem Encodable.encEtc2Rg11 : Encodable.Statement .encEtc2Rg11 :=
  encodable_fixed _ 0x14#32 (by simp [opcodeMap]) rfl

theorem Encodable.encBc1 : Encodable.Statement .encBc1 :=
  encodable_fixed _ 0x15#32 (by simp [opcodeMap]) rfl

theorem Encodable.encBc3 : Encodable.Statement .encBc3 :=
  encodable_fixed _ 0x16#32 (by simp [opcodeMap]) rfl

theorem Encodable.encBc4 : Encodable.Statement .encBc4 :=
  encodable_fixed _ 0x17#32 (by simp [opcodeMap]) rfl

theorem Encodable.encBc5 : Encodable.Statement .encBc5 :=
  encodable_fixed _ 0x18#32 (by simp [opcodeMap]) rfl

theorem Encodable.encBc7 : Encodable.Statement .encBc7 :=
  encodable_fixed _ 0x19#32 (by simp [opcodeMap]) rfl

theorem Encodable.decBc1 : Encodable.Statement .decBc1 :=
  encodable_fixed _ 0x25#32 (by simp [opcodeMap]) rfl

theorem Encodable.decBc3 : Encodable.Statement .decBc3 :=
  encodable_fixed _ 0x26#32 (by simp [opcodeMap]) rfl

theorem Encodable.decBc4 : Encodable.Statement .decBc4 :=
  encodable_fixed _ 0x27#32 (by simp [opcodeMap]) rfl

theorem Encodable.decBc5 : Encodable.Statement .decBc5 :=
  encodable_fixed _ 0x28#32 (by simp [opcodeMap]) rfl

theorem Encodable.decBc7 : Encodable.Statement .decBc7 :=
  encodable_fixed _ 0x29#32 (by simp [opcodeMap]) rfl

end Sys2Proof.Laws
end

