-- ==== Sys2Proof/Laws/Tile.lean ====
section
/-! SUPPORT. Reading the tile buffer back after it is written, by pixels or by bytes. -/

namespace Sys2Proof.Machine

/-- A byte of the tile buffer is a channel value (spec R21). -/
theorem tileByte_lt (t : TileBuf) (k : Nat) : tileByte t k < 256 := (t.toList.getD k 0#8).isLt

/-- A byte of the tile buffer by its place. -/
theorem tileByte_eq (t : TileBuf) (k : Nat) (h : k < 64) : tileByte t k = (t[k]).toNat := by
  simp [tileByte, List.getD_eq_getElem?_getD, h]

/-- Byte `k` of the buffer that holds the pixels is channel `k mod 4` of pixel `k div 4` (spec R11, R200). -/
theorem tileByte_tileOfPixels (px : List Px) (k : Nat) (h : k < 64) :
    tileByte (tileOfPixels px) k = pxChan (px.getD (k / 4) default) (k % 4) % 256 := by
  rw [tileByte_eq _ _ h]
  simp [tileOfPixels]

/-- A pixel of the buffer that holds the pixels, when its channels are `0..255` (spec R200). -/
theorem tilePx_tileOfPixels (px : List Px) (i : Nat) (h : i < 16)
    (hr : (px.getD i default).r < 256) (hg : (px.getD i default).g < 256)
    (hb : (px.getD i default).b < 256) (ha : (px.getD i default).a < 256) :
    tilePx (tileOfPixels px) i = px.getD i default := by
  have e0 : 4 * i / 4 = i := by omega
  have e1 : (4 * i + 1) / 4 = i := by omega
  have e2 : (4 * i + 2) / 4 = i := by omega
  have e3 : (4 * i + 3) / 4 = i := by omega
  have m0 : 4 * i % 4 = 0 := by omega
  have m1 : (4 * i + 1) % 4 = 1 := by omega
  have m2 : (4 * i + 2) % 4 = 2 := by omega
  have m3 : (4 * i + 3) % 4 = 3 := by omega
  unfold tilePx
  rw [tileByte_tileOfPixels _ _ (by omega), tileByte_tileOfPixels _ _ (by omega),
    tileByte_tileOfPixels _ _ (by omega), tileByte_tileOfPixels _ _ (by omega),
    e0, e1, e2, e3, m0, m1, m2, m3]
  simp only [pxChan]
  rw [Nat.mod_eq_of_lt hr, Nat.mod_eq_of_lt hg, Nat.mod_eq_of_lt hb, Nat.mod_eq_of_lt ha]

/-- Byte `j` of the tile buffer after a host write: the value's byte inside the access, the old one outside (R52). -/
theorem tileWrite_getElem (t : TileBuf) (k size : Nat) (v : BitVec 64) (j : Nat) (h : j < 64) :
    (tileWrite t k size v)[j] = if k ≤ j ∧ j < k + size then byteOf v (j - k) else t[j] := by
  simp [tileWrite]

/-- There are sixteen pixels. -/
@[simp] theorem tilePixels_length (t : TileBuf) : (tilePixels t).length = 16 := by simp [tilePixels]

/-- Pixel `i` of the tile. -/
theorem tilePixels_getElem (t : TileBuf) (i : Nat) (h : i < 16) :
    (tilePixels t)[i]'(by simpa using h) = tilePx t i := by simp [tilePixels]

end Sys2Proof.Machine
end

