-- ==== Sys2Proof/Tests/Slice0.lean ====
section
/-! SUPPORT. Small tests of one step each, from the spec's examples and vectors (95_test_vectors.md), and the witnesses
of the statements' hypotheses. -/

namespace Sys2Proof.Tests

open Sys2Proof Sys2Proof.Machine

set_option Elab.async false

/-! Ill-formed terms are refused. -/

theorem test_wf_setbits_256 : (Instr.setbits 256).wellFormed = false := by decide
theorem test_wf_getbits_256 : (Instr.getbits 256).wellFormed = false := by decide
theorem test_wf_chksize_256 : (Instr.chksize 256).wellFormed = false := by decide
theorem test_wf_widths_255 : (Instr.setbits 255).wellFormed = true ∧ (Instr.chksize 255).wellFormed = true := by decide

/-! Command words written out bit by bit from R70 and R71: ZERO in bits 31..16, WIDTH in 15..8, OPC in 7..0. -/

theorem test_decode_control :
    decode 0b00000000000000000000000000000000#32 = .ok .nop := by decide
theorem test_decode_bitpack :
    decode 0b00000000000000000000000000000001#32 = .ok .clrblk ∧
    decode 0b00000000000000000000011000000010#32 = .ok (.setbits 6) ∧
    decode 0b00000000000000000000011000000011#32 = .ok (.getbits 6) ∧
    decode 0b00000000000000001000000000000100#32 = .ok (.chksize 128) ∧
    decode 0b00000000000000000000000000000101#32 = .ok .fixboEtc ∧
    decode 0b00000000000000000000000000000110#32 = .ok .bswap64 := by decide
theorem test_decode_init :
    decode 0b00000000000000000000000000001000#32 = .ok .initBc7 := by decide
theorem test_decode_encoders :
    decode 0b00000000000000000000000000010000#32 = .ok .encEtc1 ∧
    decode 0b00000000000000000000000000010001#32 = .ok .encEtc2Rgb ∧
    decode 0b00000000000000000000000000010010#32 = .ok .encEtc2Rgba ∧
    decode 0b00000000000000000000000000010011#32 = .ok .encEtc2R11 ∧
    decode 0b00000000000000000000000000010100#32 = .ok .encEtc2Rg11 ∧
    decode 0b00000000000000000000000000010101#32 = .ok .encBc1 ∧
    decode 0b00000000000000000000000000010110#32 = .ok .encBc3 ∧
    decode 0b00000000000000000000000000010111#32 = .ok .encBc4 ∧
    decode 0b00000000000000000000000000011000#32 = .ok .encBc5 ∧
    decode 0b00000000000000000000000000011001#32 = .ok .encBc7 := by decide
theorem test_decode_decoders :
    decode 0b00000000000000000000000000100101#32 = .ok .decBc1 ∧
    decode 0b00000000000000000000000000100110#32 = .ok .decBc3 ∧
    decode 0b00000000000000000000000000100111#32 = .ok .decBc4 ∧
    decode 0b00000000000000000000000000101000#32 = .ok .decBc5 ∧
    decode 0b00000000000000000000000000101001#32 = .ok .decBc7 := by decide
theorem test_decode_setbits_255 : decode 0b00000000000000001111111100000010#32 = .ok (.setbits 255) := by decide
/-- V-C2 to V-C5. -/
theorem test_decode_refused : decode 0x00000007#32 = .error .reservedOpc ∧
    decode 0x00010000#32 = .error .zeroField ∧ decode 0x00000110#32 = .error .widthField ∧
    decode 0x00000020#32 = .error .reservedOpc ∧ decode 0xFFFFFFFF#32 = .error .reservedOpc := by decide
theorem test_table_word : decodeTableWord 32 0x4002 = some (.setbits 64) ∧ decodeTableWord 32 0x7 = none := by decide

/-! Small states. -/

/-- The bytes of a block, byte 0 first. -/
def blockOfBytes (bytes : List Nat) : Block := BitVec.ofNat 128 (bytesToNat (bytes.map (BitVec.ofNat 8)))

/-- A device of one lane at the default parameters. -/
def stateOf (l : Lane) : State := { State.reset with lanes := [l] }

/-- A lane with the given block. -/
def withBytes (bytes : List Nat) : State := stateOf { Lane.reset with blk := blockOfBytes bytes }

/-- A lane with the given tile. -/
def withTile (px : List Px) : State := stateOf { Lane.reset with tile := tileOfPixels px }

/-- A lane with the given tile and `CTRL`. -/
def withTileCtrl (px : List Px) (c : BitVec 32) : State :=
  stateOf { Lane.reset with tile := tileOfPixels px, ctrl := c }

/-- What a reader of the executing lane sees after a command. -/
def after {α : Type} (read : Lane → α) (i : Instr) (s : State) : Option α :=
  match exec i s with
  | .next t => (curLane t).map read
  | _ => none

/-- What the host sees after one step on the given input. -/
def answer (s : State) (x : Txn) : Option Response :=
  match step { s with pending := [x] } with
  | .next t => some t.response
  | _ => none

/-- What a reader of lane 0 sees after one step on the given input. -/
def afterStep {α : Type} (read : Lane → α) (s : State) (x : Txn) : Option α :=
  match step { s with pending := [x] } with
  | .next t => (t.lanes[0]?).map read
  | _ => none

/-- A solid tile. -/
def solidTile (p : Px) : List Px := List.replicate 16 p

/-- Rows 0 and 1 white, rows 2 and 3 black. -/
def rowsTile : List Px := List.replicate 8 ⟨255, 255, 255, 255⟩ ++ List.replicate 8 ⟨0, 0, 0, 255⟩

/-- Columns 0 and 1 white, columns 2 and 3 black. -/
def colsTile : List Px := (List.range 16).map fun i => if i % 4 < 2 then ⟨255, 255, 255, 255⟩ else ⟨0, 0, 0, 255⟩

/-- Pixel `i` is `(16i, 255 - 16i, 0, 16i)`. -/
def rampTile : List Px := (List.range 16).map fun i => ⟨16 * i, 255 - 16 * i, 0, 16 * i⟩

/-- R, G, B all of one value, opaque. -/
def grey (v : Nat) : Px := ⟨v, v, v, 255⟩

/-! Reset, dispatch and window (V-C1 to V-C19). -/

theorem test_step_nop : (match step (State.reset.withFetchWord 32 0x00000000) with
    | .next t => (t.lanes, t.pending, t.response)
    | _ => ([], [], .none)) = (State.reset.lanes, [], .ack) := by decide +kernel
theorem test_step_illegal : after Lane.cause .nop State.reset = some 0#4 ∧
    afterStep (fun l => (l.fault, l.cause)) State.reset (commandTxn Config.defaultParams 0 0x00000007#32)
      = some (true, 3#4) := by decide +kernel
theorem test_halted_ignores : after (fun l => (l.blk, l.cause)) .clrblk
    (stateOf { Lane.reset with fault := true, cause := 3#4, blk := 5#128 }) = some (5#128, 3#4) := by decide +kernel
theorem test_read_id : answer State.reset (.read 0x80 4) = some (.data 0x42435531#64) := by decide +kernel
theorem test_read_ctrl : answer State.reset (.read 0x64 4) = some (.data 0x00001002#64) := by decide +kernel
theorem test_read_registers :
    answer (stateOf { Lane.reset with res := 0x1122334455667788#64 }) (.read 0x5C 4) = some (.data 0x11223344#64) ∧
    answer (stateOf { Lane.reset with bitpos := 65#8 }) (.read 0x60 4) = some (.data 65#64) ∧
    answer (stateOf { Lane.reset with w7 := 0xBEEF#16 }) (.read 0x7C 4) = some (.data 0xBEEF#64) := by decide +kernel
theorem test_write_ctrl_ones : afterStep Lane.ctrl State.reset (.write 0x64 4 0xFFFFFFFF#64) = some 0x00001027#32 := by
  decide +kernel
theorem test_write_ctrl_zero : afterStep Lane.ctrl State.reset (.write 0x64 4 0#64) = some 0x00001000#32 := by
  decide +kernel
theorem test_write_bitpos : afterStep Lane.bitpos State.reset (.write 0x60 4 200#64) = some 128#8 := by decide +kernel
theorem test_write_w1 : afterStep Lane.w1 State.reset (.write 0x70 4 0x00012345#64) = some 0x2345#16 := by
  decide +kernel
theorem test_bus_errors : answer State.reset (.write 0x3C 8 0#64) = some .error ∧
    answer State.reset (.write 0x60 2 1#64) = some .error ∧ answer State.reset (.write 0x60 8 0#64) = some .error ∧
    answer State.reset (.read 0x68 1) = some .error := by decide +kernel
/-- V-C17: little-endian, mixed widths. -/
theorem test_mixed_widths : afterStep (fun l => (tileByte l.tile 0x38, tileByte l.tile 0x3F)) State.reset
    (.write 0x38 8 0x8877665544332211#64) = some (0x11, 0x88) := by decide +kernel
/-- V-C7, on a halted lane. -/
theorem test_halted_tile_write : afterStep (fun l => tilePx l.tile 0)
    (stateOf { Lane.reset with fault := true, cause := 3#4 }) (.write 0x00 4 0x11223344#64)
      = some ⟨0x44, 0x33, 0x22, 0x11⟩ := by decide +kernel
theorem test_reset_input : afterStep (fun l => (l.fault, l.ctrl)) (stateOf { Lane.reset with fault := true, ctrl := 0#32 })
    .reset = some (false, 0x1002#32) := by decide +kernel

/-! Bit packing (V-P1 to V-P14). -/

theorem test_clrblk : after (fun l => (l.blk, l.bitpos)) .clrblk (stateOf { Lane.reset with blk := 9#128, bitpos := 77#8 })
    = some (0#128, 0#8) := by decide +kernel
theorem test_setbits : after (fun l => (l.blk, l.bitpos)) (.setbits 6)
    (stateOf { Lane.reset with arg := 0x2D#64, bitpos := 6#8 }) = some (0x0B40#128, 12#8) := by decide +kernel
/-- V-P7: a value that is not below `2^3`. -/
theorem test_setbits_value_fault : after (fun l => (l.fault, l.cause, l.blk)) (.setbits 3)
    (stateOf { Lane.reset with arg := 8#64 }) = some (true, 4#4, 0#128) := by decide +kernel
theorem test_getbits : after (fun l => (l.res, l.bitpos)) (.getbits 6)
    (stateOf { Lane.reset with blk := 0x0B40#128, bitpos := 6#8 }) = some (0x2D#64, 12#8) := by decide +kernel
/-- V-P9. -/
theorem test_getbits_fault : after (fun l => (l.fault, l.cause, l.res)) (.getbits 32)
    (stateOf { Lane.reset with res := 7#64, bitpos := 100#8 }) = some (true, 4#4, 7#64) := by decide +kernel
theorem test_chksize : after (fun l => (l.fault, l.cause)) (.chksize 64) (stateOf { Lane.reset with bitpos := 128#8 })
    = some (true, 2#4) ∧ after Lane.fault (.chksize 128) (stateOf { Lane.reset with bitpos := 128#8 }) = some false := by
  decide +kernel
theorem test_fixbo : after Lane.blk .fixboEtc (withBytes [0x11, 0x22, 0x33, 0x44, 0x55, 0x66, 0x77, 0x88, 0x99])
    = some (blockOfBytes [0x11, 0x22, 0x33, 0x44, 0x88, 0x77, 0x66, 0x55, 0x99]) := by decide +kernel
theorem test_bswap64 : after Lane.blk .bswap64 (withBytes [0x11, 0x22, 0x33, 0x44, 0x55, 0x66, 0x77, 0x88, 0x99])
    = some (blockOfBytes [0x88, 0x77, 0x66, 0x55, 0x44, 0x33, 0x22, 0x11, 0x99]) := by decide +kernel

/-! Decoders (V-D1 to V-D13). -/

theorem test_dec_bc1 : after (fun l => (tilePixels l.tile).take 4) .decBc1
    (withBytes [0x00, 0xF8, 0x1F, 0x00, 0xE4, 0xE4, 0xE4, 0xE4])
      = some [⟨255, 0, 0, 255⟩, ⟨0, 0, 255, 255⟩, ⟨170, 0, 85, 255⟩, ⟨85, 0, 170, 255⟩] := by decide +kernel
/-- V-D2: the three-colour mode. -/
theorem test_dec_bc1_three : after (fun l => (tilePixels l.tile).take 4) .decBc1
    (withBytes [0x1F, 0x00, 0x00, 0xF8, 0xE4, 0xE4, 0xE4, 0xE4])
      = some [⟨0, 0, 255, 255⟩, ⟨255, 0, 0, 255⟩, ⟨127, 0, 127, 255⟩, ⟨0, 0, 0, 255⟩] := by decide +kernel
theorem test_dec_bc3 : after (fun l => (tilePx l.tile 0, tilePx l.tile 5, tileA l.tile)) .decBc3
    (withBytes [0xF0, 0x00, 0xC9, 0x6F, 0xB7, 0xE4, 0x26, 0x01, 0x20, 0xB2, 0x20, 0x3E, 0x55, 0xFD, 0x2A, 0x00])
      = some (⟨57, 199, 0, 0⟩, ⟨98, 155, 0, 68⟩,
        [0, 0, 34, 34, 68, 68, 102, 102, 137, 137, 171, 171, 205, 205, 240, 240]) := by decide +kernel
theorem test_dec_bc4 : after (fun l => tileR l.tile) .decBc4
    (withBytes [0x00, 0xFF, 0x88, 0xC6, 0xFA, 0x88, 0xC6, 0xFA])
      = some [0, 255, 51, 102, 153, 204, 0, 255, 0, 255, 51, 102, 153, 204, 0, 255] := by decide +kernel
theorem test_dec_bc5 : after (fun l => (tilePx l.tile 9, l.bitpos)) .decBc5
    (withBytes [0x40, 0x40, 0, 0, 0, 0, 0, 0, 0xC0, 0xC0]) = some (⟨64, 192, 0, 255⟩, 128#8) := by decide +kernel
theorem test_dec_bc7 : after (fun l => [0, 4, 8, 12].map (tilePx l.tile)) .decBc7
    (withBytes [0x80, 0x0D, 0x70, 0x1D, 0xCA, 0xFF, 0x04, 0, 0, 0, 0xD7, 0x21, 0xAD, 0x54, 0x55, 0xAB])
      = some [⟨37, 180, 0, 37⟩, ⟨76, 217, 0, 76⟩, ⟨166, 52, 1, 166⟩, ⟨203, 89, 3, 203⟩] := by decide +kernel
theorem test_dec_bc7_reserved : after (fun l => (tilePixels l.tile, l.fault)) .decBc7 (withBytes [0, 0xFF, 0x12])
    = some (List.replicate 16 ⟨0, 0, 0, 0⟩, false) := by decide +kernel

/-! Encoders (V-E1 to V-E13, V-B1 to V-B13, V-7.7, V-7.15). -/

theorem test_enc_etc1_solid : after Lane.blk .encEtc1 (withTile (solidTile ⟨255, 0, 0, 9⟩))
    = some (blockOfBytes [0xF8, 0, 0, 2]) := by decide +kernel
theorem test_enc_etc1_rows : after Lane.blk .encEtc1 (withTile rowsTile)
    = some (blockOfBytes [0xF0, 0xF0, 0xF0, 1]) := by decide +kernel
theorem test_enc_etc2_rgb : after Lane.blk .encEtc2Rgb (withTile rowsTile)
    = some (blockOfBytes [0x04, 0x00, 0xFF, 0xF2, 0x00, 0x00, 0x33, 0x33]) := by decide +kernel
theorem test_enc_etc2_rgba : after Lane.blk .encEtc2Rgba (withTile (solidTile ⟨255, 0, 0, 77⟩))
    = some (blockOfBytes [0x4D, 0, 0, 0, 0, 0, 0, 0, 0xF8, 0, 0, 2]) := by decide +kernel
theorem test_etc_decode_worked : etcDecode (halfOfWord 0xFFFFFF0000000000) = List.replicate 16 ⟨255, 255, 255, 255⟩ ∧
    etcDecode (halfOfWord 0x0000000200000000) = List.replicate 16 ⟨2, 2, 2, 255⟩ := by decide +kernel
theorem test_etc2_rgba_decode : etc2RgbaDecode (blockOfBytes [0x4D, 0, 0, 0, 0, 0, 0, 0, 0xF8, 0, 0, 2])
    = List.replicate 16 ⟨255, 2, 2, 77⟩ := by decide +kernel
theorem test_enc_etc2_r11 : after Lane.blk .encEtc2R11
    (withTile (List.replicate 8 (grey 10) ++ List.replicate 8 (grey 20)))
      = some (blockOfBytes [0x0F, 0x10, 0x26, 0xD2, 0x6D, 0x26, 0xD2, 0x6D]) := by decide +kernel
theorem test_enc_etc2_rg11 : after Lane.blk .encEtc2Rg11 (withTile (solidTile ⟨64, 192, 1, 2⟩))
    = some (blockOfBytes [0x40, 0, 0, 0, 0, 0, 0, 0, 0xC0]) := by decide +kernel
theorem test_enc_bc1_rows : after Lane.blk .encBc1 (withTile rowsTile)
    = some (blockOfBytes [0xFF, 0xFF, 0, 0, 0, 0, 0x55, 0x55]) := by decide +kernel
theorem test_enc_bc1_dither : after Lane.blk .encBc1 (withTileCtrl (solidTile (grey 128)) 0x1003#32)
    = some (blockOfBytes [0x10, 0x84, 0xEF, 0x7B, 0x99, 0xCE, 0x9B, 0xC8]) := by decide +kernel
theorem test_enc_bc3 : after Lane.blk .encBc3 (withTile (solidTile ⟨255, 0, 0, 128⟩))
    = some (blockOfBytes [0x80, 0x80, 0, 0, 0, 0, 0, 0, 0x00, 0xF8, 0x00, 0xF8]) := by decide +kernel
theorem test_enc_bc4 : after (fun l => (l.blk, l.bitpos)) .encBc4 (withTile rampTile)
    = some (blockOfBytes [0xF0, 0x00, 0xC9, 0x6F, 0xB7, 0xE4, 0x26, 0x01], 64#8) := by decide +kernel
theorem test_enc_bc5 : after Lane.blk .encBc5 (withTile rampTile)
    = some (blockOfBytes [0xF0, 0x00, 0xC9, 0x6F, 0xB7, 0xE4, 0x26, 0x01, 0xFF, 0x0F, 0x80, 0xB4, 0x91, 0xAD, 0xFD,
      0x27]) := by decide +kernel
/-- V-7.15. -/
theorem test_enc_bc7_uninit : after (fun l => (l.fault, l.cause, l.blk)) .encBc7 (withTile rowsTile)
    = some (true, 1#4, 0#128) := by decide +kernel
/-- The worked block of R309: its choice, canonicalised and packed. -/
theorem test_pack_bc7 : packChoice (canonicalise
    { mode := 1, part := 13, q := [[63, 63, 63, 0], [63, 63, 63, 0], [0, 0, 0, 0], [0, 0, 0, 0]], pb := [1, 0],
      sel1 := List.replicate 16 2, sel2 := [] })
      = blockOfBytes [0x36, 0xFF, 0x0F, 0, 0xFF, 0x0F, 0, 0xFF, 0x0F, 0, 0x29, 0x49, 0x92, 0x24, 0x49, 0x92] := by
  decide +kernel
/-- The p-bits and selectors of a subset whose anchor has its top bit set are exchanged and inverted (R297). -/
theorem test_canonicalise_mode6 :
    canonicalise ⟨6, 0, [[1, 2, 3, 4], [5, 6, 7, 8]], [0, 1], 15 :: List.replicate 15 3, []⟩
      = ⟨6, 0, [[5, 6, 7, 8], [1, 2, 3, 4]], [1, 0], 0 :: List.replicate 15 12, []⟩ := by decide +kernel

/-! Tables. -/

theorem test_bayer : (List.range 16).map bayer31 = [-5, 0, -4, 1, 2, -2, 4, -1, -3, 2, -4, 0, 4, 0, 3, -2] ∧
    (List.range 16).map bayer63 = [-2, 0, -2, 0, 1, -1, 2, 0, -1, 1, -2, 0, 2, 0, 1, -1] := by decide +kernel
theorem test_opt1_sample : opt1Entry 0 1 = ⟨4, 0, 0⟩ := by decide +kernel
theorem test_opt7_sample : opt7Entry 128 0 0 = ⟨0, 23, 1⟩ := by decide +kernel
theorem test_init_bc7 : (match exec .initBc7 State.reset with
    | .next t => t.bc7Ready
    | _ => false) = true := by decide +kernel

/-- V-7.7 with `BC7_MAXPART = 1`. -/
theorem test_enc_bc7 : after Lane.blk .encBc7 { withTileCtrl colsTile 0x42#32 with opt1 := opt1Table, opt7 := opt7Table, bc7Ready := true }
    = some (blockOfBytes [0x02, 0xFF, 0x0F, 0, 0xFF, 0x0F, 0, 0xFF, 0x0F, 0, 0x29, 0x49, 0x92, 0x24, 0x49, 0x92]) := by
  decide +kernel

/-! Witnesses: a concrete state and operands for the hypotheses of each statement that has some. -/

/-- The reset lane is running. -/
theorem running_reset : Running State.reset Lane.reset := ⟨rfl, rfl⟩

/-- A one-lane state whose lane is not halted runs it. -/
theorem running_stateOf (l : Lane) (h : l.fault = false) : Running (stateOf l) l := ⟨rfl, h⟩

/-- A device of two lanes, lane 1 last accessed and running, lane 0 halted. -/
def twoLanes : State :=
  { State.resetWith 2 Config.defaultParams with
    lanes := [{ Lane.reset with fault := true, cause := 2#4 }, { Lane.reset with tile := tileOfPixels rowsTile }],
    cur := 1 }

theorem witness_ResetValues : Lane.reset ∈ (State.resetWith 3 Config.defaultParams).lanes := by simp [State.resetWith]
theorem witness_ResetInputRestartsDevice : { twoLanes with pending := [.reset] }.pending = .reset :: [] := rfl
theorem witness_StepRunsDecodedCommand : (State.reset.withFetchWord 32 0x00000001).pending
      = commandTxn State.reset.params 0 0x00000001#32 :: [] ∧ 0 < (State.reset.withFetchWord 32 1).lanes.length ∧
    decode 0x00000001#32 = .ok .clrblk ∧ decode 0x00000007#32 = .error .reservedOpc := by decide +kernel
theorem witness_DecodeOfEncode : (Instr.setbits 255).wellFormed = true ∧ (Instr.getbits 0).wellFormed = true := by decide
theorem witness_EncodeOfDecode : decode 0x0000FF04#32 = .ok (.chksize 255) := by decide
theorem witness_IllegalWordFaults : ¬LegalWord 0x00000007#32 ∧ ¬LegalWord 0x00010000#32 ∧ ¬LegalWord 0x00000100#32 ∧
    LegalWord 0x0000FF02#32 ∧ Running State.reset Lane.reset := by
  refine ⟨?_, ?_, ?_, ?_, running_reset⟩ <;> unfold LegalWord <;> decide
theorem witness_HaltedLaneIgnoresCommands : ∃ l, curLane { twoLanes with cur := 0 } = some l ∧ l.fault = true := ⟨_, rfl, rfl⟩
theorem witness_FaultCauses : Running State.reset Lane.reset := running_reset
/-- Each cause code is reached, and a width of 64 faults with none. -/
theorem witness_FaultCauses_codes : after (fun l => (l.fault, l.cause)) .encBc7 State.reset = some (true, 1#4) ∧
    after (fun l => (l.fault, l.cause)) (.chksize 1) State.reset = some (true, 2#4) ∧
    afterStep (fun l => (l.fault, l.cause)) State.reset (commandTxn Config.defaultParams 0 0x00000120#32)
      = some (true, 3#4) ∧
    after (fun l => (l.fault, l.cause)) (.setbits 65) State.reset = some (true, 4#4) ∧
    after (fun l => (l.fault, l.cause)) (.getbits 0) State.reset = some (true, 4#4) ∧
    after (fun l => (l.fault, l.cause)) (.setbits 64) State.reset = some (false, 0#4) := by decide +kernel
theorem witness_FaultChangesOnlyFaultAndCause : Running State.reset Lane.reset ∧ after Lane.fault (.chksize 1) State.reset = some true := ⟨running_reset, by decide +kernel⟩
theorem witness_FaultStaysUntilReset : ∃ l, { twoLanes with pending := [.read 0x68 4] }.lanes[0]? = some l ∧ l.fault = true ∧
    { twoLanes with pending := [Txn.read 0x68 4] }.pending.head? ≠ some .reset ∧
    (answer twoLanes (.read 0x68 4)).isSome = true := ⟨_, rfl, rfl, by decide, by decide +kernel⟩
theorem witness_ReadyTablesStayUntilReset : { twoLanes with bc7Ready := true, pending := [.read 0x68 4] }.bc7Ready = true ∧
    (answer { twoLanes with bc7Ready := true } (.read 0x68 4)).isSome = true := ⟨rfl, by decide +kernel⟩
theorem witness_InvariantAtReset : 0 < 2 := by decide
theorem witness_InvariantKeptByEveryStep : Inv { State.reset with pending := [.read 0x80 4] } ∧ (answer State.reset (.read 0x80 4)).isSome = true := by
  refine ⟨⟨by decide, ?_, fun h => by cases h⟩, by decide +kernel⟩
  intro l hl
  have hl' : l = Lane.reset := by simpa [State.reset, State.resetWith, Config.defaultLanes] using hl
  subst hl'
  exact ⟨by decide, by decide, fun _ => rfl, fun h => by cases h⟩
theorem witness_AddressedStepsNeverStop : SafeState { State.reset with pending := [.write 0xFF 1 5#64] } := by
  intro t rest h
  cases h
  unfold Addressed
  decide +kernel
theorem witness_CommandsKeepOtherLanes : after Lane.bitpos .encBc4 twoLanes = some 64#8 := by decide +kernel
theorem witness_CommandsWriteOnlyListedRegisters : Running (stateOf { Lane.reset with tile := tileOfPixels rowsTile }) { Lane.reset with tile := tileOfPixels rowsTile } ∧
    after Lane.bitpos .encBc4 (withTile rowsTile) = some 64#8 := ⟨running_stateOf _ rfl, by decide +kernel⟩
theorem witness_NopChangesNothing : curLane State.reset = some Lane.reset := rfl
theorem witness_ClrblkEffect : Running State.reset Lane.reset := running_reset
theorem witness_SetbitsEffect : Running (stateOf { Lane.reset with bitpos := 64#8, arg := 0xFFFFFFFFFFFFFFFF#64 }) { Lane.reset with bitpos := 64#8, arg := 0xFFFFFFFFFFFFFFFF#64 } := running_stateOf _ rfl
theorem witness_GetbitsEffectAndLaw : Running (stateOf { Lane.reset with bitpos := 0#8, arg := 0xFF#64 }) { Lane.reset with bitpos := 0#8, arg := 0xFF#64 } ∧ (0xFF#64).toNat < 2 ^ 8 := ⟨running_stateOf _ rfl, by decide⟩
theorem witness_ChksizeEffect : Running State.reset Lane.reset ∧ LaneInv Lane.reset ∧
    Running (stateOf { Lane.reset with bitpos := 128#8 }) { Lane.reset with bitpos := 128#8 } := by
  refine ⟨running_reset, ⟨by decide, by decide, fun _ => rfl, fun h => by cases h⟩, running_stateOf _ rfl⟩
theorem witness_FixboEtcEffect : Running State.reset Lane.reset := running_reset
theorem witness_Bswap64Effect : Running State.reset Lane.reset := running_reset
theorem witness_InitBc7Effect : Running State.reset Lane.reset ∧ State.reset.bc7Ready = false ∧
    Running { State.reset with bc7Ready := true } Lane.reset := ⟨running_reset, rfl, rfl, rfl⟩
theorem witness_UninitialisedBc7Faults : Running State.reset Lane.reset ∧ State.reset.bc7Ready = false := ⟨running_reset, rfl⟩
theorem witness_EncBc7Effect : Running { withTile rowsTile with opt1 := opt1Table, opt7 := opt7Table, bc7Ready := true } { Lane.reset with tile := tileOfPixels rowsTile } ∧
    Running { withTile rampTile with opt1 := opt1Table, opt7 := opt7Table, bc7Ready := true } { Lane.reset with tile := tileOfPixels rampTile } ∧
    (∀ i < 16, (tilePx (tileOfPixels rowsTile) i).a = 255) ∧ (∃ i < 16, (tilePx (tileOfPixels rampTile) i).a ≠ 255) := by
  refine ⟨⟨rfl, rfl⟩, ⟨rfl, rfl⟩, by decide +kernel, 0, by decide, by decide +kernel⟩
theorem witness_CanonicalisationKeepsPixels : choiceContract (solidTile ⟨1, 2, 3, 4⟩)
    { mode := 5, part := 0, q := [[1, 2, 3, 4], [127, 6, 7, 255]], pb := [], sel1 := List.replicate 16 3, sel2 := List.replicate 16 2 } = true := by
  decide +kernel
theorem witness_PackedChoiceDecodes : choiceContract (solidTile ⟨1, 2, 3, 4⟩)
      { mode := 5, part := 0, q := [[1, 2, 3, 4], [127, 6, 7, 255]], pb := [], sel1 := List.replicate 16 1, sel2 := List.replicate 16 1 } = true ∧
    AnchorsClear { mode := 5, part := 0, q := [[1, 2, 3, 4], [127, 6, 7, 255]], pb := [], sel1 := List.replicate 16 1, sel2 := List.replicate 16 1 } := by
  refine ⟨by decide +kernel, ?_⟩
  unfold AnchorsClear
  decide +kernel
theorem witness_DecBc7InvertsEncBc7 : Running { withTile rowsTile with opt1 := opt1Table, opt7 := opt7Table, bc7Ready := true } { Lane.reset with tile := tileOfPixels rowsTile } ∧
    LaneInv { Lane.reset with tile := tileOfPixels rowsTile } ∧ TablesInv { withTile rowsTile with opt1 := opt1Table, opt7 := opt7Table, bc7Ready := true } := by
  refine ⟨⟨rfl, rfl⟩, ⟨by decide, by decide, fun _ => rfl, fun h => by cases h⟩, fun _ => ⟨rfl, rfl⟩⟩
theorem witness_EncodersOf64BitFormats : Running (stateOf { Lane.reset with tile := tileOfPixels rampTile }) { Lane.reset with tile := tileOfPixels rampTile } := running_stateOf _ rfl
theorem witness_EncodersOf128BitFormats : Running (stateOf { Lane.reset with tile := tileOfPixels rampTile }) { Lane.reset with tile := tileOfPixels rampTile } := running_stateOf _ rfl
theorem witness_BlocksDependOnlyOnUsedChannels : Running (withTile (solidTile ⟨1, 2, 3, 4⟩)) { Lane.reset with tile := tileOfPixels (solidTile ⟨1, 2, 3, 4⟩) } ∧
    Running (withTile (solidTile ⟨1, 2, 3, 200⟩)) { Lane.reset with tile := tileOfPixels (solidTile ⟨1, 2, 3, 200⟩) } ∧
    tileRgb (tileOfPixels (solidTile ⟨1, 2, 3, 4⟩)) = tileRgb (tileOfPixels (solidTile ⟨1, 2, 3, 200⟩)) ∧
    (withTile (solidTile ⟨1, 2, 3, 4⟩)).params = (withTile (solidTile ⟨1, 2, 3, 200⟩)).params := ⟨⟨rfl, rfl⟩, ⟨rfl, rfl⟩, by decide +kernel, by simp only [withTile, stateOf]⟩
/-- Two values of `CTRL` that agree in what `ENC.BC7` reads and in nothing else. -/
theorem witness_BlocksDependOnlyOnUsedChannels_ctrl : ctrlPrune 0x1002#32 = ctrlPrune 0x1001#32 ∧ ctrlEffort 0x1002#32 = ctrlEffort 0x1001#32 ∧
    ctrlMaxPart 0x1002#32 = ctrlMaxPart 0x1001#32 ∧ ctrlDither 0x1002#32 ≠ ctrlDither 0x1001#32 ∧
    ctrlEtc2Th 0x1002#32 ≠ ctrlEtc2Th 0x1001#32 := by decide
theorem witness_FieldsFillEveryBlock : 63 < 2 ^ (bc7Mode 7).pb ∧ etcModeOf (wordOf 0#64) = .individual ∧
    etcModeOf (wordOf (halfOfWord (7 * 2 ^ 59 + 4 * 2 ^ 56 + 2 ^ 33))) = .differential := by decide +kernel
theorem witness_ChksizePassesAfterCodecCommand : Running { withTile rowsTile with opt1 := opt1Table, opt7 := opt7Table, bc7Ready := true } { Lane.reset with tile := tileOfPixels rowsTile } ∧ decInstr .bc3 = some .decBc3 := ⟨⟨rfl, rfl⟩, rfl⟩
theorem witness_Etc1BlockIsValid : Running (stateOf { Lane.reset with tile := tileOfPixels rowsTile }) { Lane.reset with tile := tileOfPixels rowsTile } ∧
    ∀ i < 16, rgbOf (tilePx (tileOfPixels rowsTile) i) = if i < 8 then [255, 255, 255] else [0, 0, 0] := ⟨running_stateOf _ rfl, by decide +kernel⟩
theorem witness_Etc1SolidTileWithinFour : Running (stateOf { Lane.reset with tile := tileOfPixels (solidTile ⟨100, 150, 200, 7⟩) }) { Lane.reset with tile := tileOfPixels (solidTile ⟨100, 150, 200, 7⟩) } ∧
    ∀ i < 16, rgbOf (tilePx (tileOfPixels (solidTile ⟨100, 150, 200, 7⟩)) i) = [100, 150, 200] := ⟨running_stateOf _ rfl, by decide +kernel⟩
theorem witness_Etc2WithoutTHEqualsEtc1 : Running (withTileCtrl rowsTile 0x1000#32) { Lane.reset with tile := tileOfPixels rowsTile, ctrl := 0x1000#32 } ∧
    ctrlEtc2Th 0x1000#32 = false := ⟨⟨rfl, rfl⟩, by decide⟩
theorem witness_PaintBlocksDecodeToTheirPaint : (List.replicate 16 3).length = 16 ∧ (∀ j ∈ List.replicate 16 3, j < 4) ∧
    (256 * 15 + 16 * 0 + 7 ≥ 256 * 1 + 16 * 2 + 3 ↔ 5 % 2 = 1) ∧ (256 * 1 + 16 * 2 + 3 ≥ 256 * 15 + 16 * 0 + 7 ↔ 4 % 2 = 1) := by decide
theorem witness_Etc2NeverWorseThanEtc1 : Running (stateOf { Lane.reset with tile := tileOfPixels rowsTile }) { Lane.reset with tile := tileOfPixels rowsTile } ∧
    (stateOf { Lane.reset with tile := tileOfPixels rowsTile }).params.encoder = .reference := ⟨running_stateOf _ rfl, rfl⟩
theorem witness_EacSolidRoundTrip : Running (stateOf { Lane.reset with tile := tileOfPixels (solidTile ⟨77, 255, 3, 0⟩) }) { Lane.reset with tile := tileOfPixels (solidTile ⟨77, 255, 3, 0⟩) } ∧
    (∀ i < 16, (tilePx (tileOfPixels (solidTile ⟨77, 255, 3, 0⟩)) i).r = 77 ∧
      (tilePx (tileOfPixels (solidTile ⟨77, 255, 3, 0⟩)) i).g = 255 ∧
      (tilePx (tileOfPixels (solidTile ⟨77, 255, 3, 0⟩)) i).a = 0) := ⟨running_stateOf _ rfl, by decide +kernel⟩
theorem witness_Bc4SolidRoundTrip : Running (stateOf { Lane.reset with tile := tileOfPixels (solidTile ⟨77, 255, 3, 0⟩) }) { Lane.reset with tile := tileOfPixels (solidTile ⟨77, 255, 3, 0⟩) } ∧
    (∀ i < 16, (tilePx (tileOfPixels (solidTile ⟨77, 255, 3, 0⟩)) i).r = 77 ∧
      (tilePx (tileOfPixels (solidTile ⟨77, 255, 3, 0⟩)) i).g = 255 ∧
      (tilePx (tileOfPixels (solidTile ⟨77, 255, 3, 0⟩)) i).a = 0) := ⟨running_stateOf _ rfl, by decide +kernel⟩
theorem witness_Bc4IndicesAreNearest : Running (stateOf { Lane.reset with tile := tileOfPixels rampTile }) { Lane.reset with tile := tileOfPixels rampTile } ∧
    (tilePx (tileOfPixels rampTile) 0).r ≠ (tilePx (tileOfPixels rampTile) 15).r := ⟨running_stateOf _ rfl, by decide +kernel⟩
theorem witness_Bc1RedScenario : Running (withTile (solidTile ⟨255, 0, 0, 255⟩)) { Lane.reset with tile := tileOfPixels (solidTile ⟨255, 0, 0, 255⟩) } ∧
    ctrlDither Lane.reset.ctrl = false ∧
    (∀ i < 16, tilePx (tileOfPixels (solidTile ⟨255, 0, 0, 255⟩)) i = ⟨255, 0, 0, 255⟩) := ⟨⟨rfl, rfl⟩, by decide, by decide +kernel⟩
theorem witness_EncBc1NeverTransparent : Running (withTileCtrl rampTile 0x1003#32) { Lane.reset with tile := tileOfPixels rampTile, ctrl := 0x1003#32 } := ⟨rfl, rfl⟩
theorem witness_Bc1SolidTileErrors : Running (stateOf { Lane.reset with tile := tileOfPixels (solidTile ⟨0, 255, 128, 1⟩) }) { Lane.reset with tile := tileOfPixels (solidTile ⟨0, 255, 128, 1⟩) } ∧
    (∀ i < 16, rgbOf (tilePx (tileOfPixels (solidTile ⟨0, 255, 128, 1⟩)) i) = [0, 255, 128]) ∧
    ctrlDither Lane.reset.ctrl = false := ⟨running_stateOf _ rfl, by decide +kernel, by decide⟩
theorem witness_Bc3ColourHalfReadsAlike : Running (stateOf { Lane.reset with tile := tileOfPixels rampTile }) { Lane.reset with tile := tileOfPixels rampTile } ∧
    (stateOf { Lane.reset with tile := tileOfPixels rampTile }).params.encoder = .reference := ⟨running_stateOf _ rfl, rfl⟩
theorem witness_DecBc1Effect : Running State.reset Lane.reset := running_reset
theorem witness_DecBc4AndDecBc5Effect : Running State.reset Lane.reset := running_reset
theorem witness_DecBc3Effect : Running State.reset Lane.reset := running_reset
theorem witness_DecBc7Effect : Running (stateOf { Lane.reset with blk := 0x20#128 }) { Lane.reset with blk := 0x20#128 } ∧
    (0x20#128 : Block).getLsbD 5 = true ∧ ∀ k < 5, (0x20#128 : Block).getLsbD k = false := ⟨running_stateOf _ rfl, by decide, by decide⟩
/-- Every rotation and both index selections occur. -/
theorem witness_DecBc7Effect_rotations : (0xB0#128 : Block).getLsbD 4 = true ∧ (∀ k < 4, (0xB0#128 : Block).getLsbD k = false) ∧
    (bc7Fields 4 0xB0#128).rot = 1 ∧ (bc7Fields 4 0xB0#128).isb = 1 ∧ (bc7Fields 4 0x50#128).rot = 2 ∧
    (bc7Fields 4 0x50#128).isb = 0 ∧ (bc7Fields 5 0xE0#128).rot = 3 ∧ (bc7Fields 7 0x3F80#128).rot = 0 := by decide +kernel
theorem witness_WindowReadReturnsBytes : { State.reset with pending := [hostRead State.reset.params 0 0xF8 8] }.pending = hostRead State.reset.params 0 0xF8 8 :: [] ∧
    State.reset.lanes[0]? = some Lane.reset ∧ LegalAccess 0xF8 8 ∧ LegalAccess 0x00 1 ∧ LegalAccess 0x80 4 := by
  refine ⟨rfl, rfl, ?_, ?_, ?_⟩ <;> unfold LegalAccess <;> decide
theorem witness_IllegalAccessChangesNothing : { State.reset with pending := [hostRead State.reset.params 0 0xFF 2] }.pending
      = hostRead State.reset.params 0 0xFF 2 :: [] ∧ 0 < State.reset.lanes.length ∧ ¬LegalAccess 0xFF 2 ∧
    ¬LegalAccess 0x60 8 ∧ ¬LegalAccess 0x6C 1 ∧ ¬LegalAccess 0x84 8 ∧ ¬LegalAccess 0 0 := by
  refine ⟨rfl, by decide, ?_, ?_, ?_, ?_, ?_⟩ <;> unfold LegalAccess <;> decide
theorem witness_BufferWriteReplacesBytes : { State.reset with pending := [hostWrite State.reset.params 0 0x50 8 7#64] }.pending = hostWrite State.reset.params 0 0x50 8 7#64 :: [] ∧
    State.reset.lanes[0]? = some Lane.reset ∧ LegalAccess 0x50 8 ∧ LegalAccess 0x4F 1 ∧ LegalAccess 0x38 8 := by
  refine ⟨rfl, rfl, ?_, ?_, ?_⟩ <;> unfold LegalAccess <;> decide
theorem witness_RegisterWritesAreLegalised : { State.reset with pending := [hostWrite State.reset.params 0 0x60 4 129#64] }.pending = hostWrite State.reset.params 0 0x60 4 129#64 :: [] ∧
    State.reset.lanes[0]? = some Lane.reset ∧ (∀ off ∈ [0x60, 0x64, 0x70, 0x74, 0x78, 0x7C, 0x58, 0x68, 0x80, 0x84, 0xFC], LegalAccess off 4) := by
  refine ⟨rfl, rfl, ?_⟩
  unfold LegalAccess
  decide
/-- The clauses of `SetbitsEffect` at the ends of their ranges: widths 0, 64 and 65, the block's last bit, `2^width`. -/
theorem witness_SetbitsEffect_bounds :
    (after Lane.cause (.setbits 0) (stateOf { Lane.reset with bitpos := 64#8, arg := 1#64 }) = some 4#4) ∧
    (after Lane.cause (.setbits 65) (stateOf { Lane.reset with bitpos := 0#8, arg := 1#64 }) = some 4#4) ∧
    (after (fun l => (l.bitpos, l.fault)) (.setbits 64) (stateOf { Lane.reset with bitpos := 64#8, arg := 0xFFFFFFFFFFFFFFFF#64 }) = some (128#8, false)) ∧
    (after Lane.cause (.setbits 64) (stateOf { Lane.reset with bitpos := 65#8, arg := 1#64 }) = some 4#4) ∧
    (after Lane.cause (.setbits 3) (stateOf { Lane.reset with bitpos := 0#8, arg := 8#64 }) = some 4#4) ∧
    (after Lane.fault (.setbits 3) (stateOf { Lane.reset with bitpos := 0#8, arg := 7#64 }) = some false) := by decide +kernel
/-- The clauses of `GetbitsEffectAndLaw` at the ends of their ranges. -/
theorem witness_GetbitsEffectAndLaw_bounds :
    (after Lane.cause (.getbits 0) (stateOf { Lane.reset with bitpos := 64#8, arg := 1#64 }) = some 4#4) ∧
    (after Lane.cause (.getbits 65) (stateOf { Lane.reset with bitpos := 0#8, arg := 1#64 }) = some 4#4) ∧
    (after (fun l => (l.bitpos, l.fault)) (.getbits 64) (stateOf { Lane.reset with bitpos := 64#8, arg := 0xFFFFFFFFFFFFFFFF#64 }) = some (128#8, false)) ∧
    (after Lane.cause (.getbits 64) (stateOf { Lane.reset with bitpos := 65#8, arg := 1#64 }) = some 4#4) := by decide +kernel
/-- The clauses of `RegisterWritesAreLegalised` at the ends of their ranges. -/
theorem witness_RegisterWritesAreLegalised_bounds :
    afterStep Lane.bitpos State.reset (.write 0x60 4 128#64) = some 128#8 ∧
    afterStep Lane.bitpos State.reset (.write 0x60 4 129#64) = some 128#8 ∧
    afterStep Lane.bitpos State.reset (.write 0x60 4 127#64) = some 127#8 ∧
    afterStep (fun l => (ctrlEffort l.ctrl, ctrlMaxPart l.ctrl)) State.reset (.write 0x64 4 0x1060#64) = some (4, 64) ∧
    afterStep (fun l => (ctrlEffort l.ctrl, ctrlMaxPart l.ctrl)) State.reset (.write 0x64 4 0x1068#64) = some (4, 64) ∧
    afterStep (fun l => (ctrlEffort l.ctrl, ctrlMaxPart l.ctrl)) State.reset (.write 0x64 4 0x58#64) = some (3, 1) ∧
    afterStep id State.reset (.write 0x58 4 9#64) = some Lane.reset ∧
    afterStep id State.reset (.write 0xFC 4 9#64) = some Lane.reset := by decide +kernel

end Sys2Proof.Tests
end

section
/-! SUPPORT. What a command, a word written to `CMD` and an access to the window can do to a state, each said once as
an inversion lemma over the laws of the shared operations. -/

namespace Sys2Proof.Machine

/-- Everything a command that gives a next state can do: nothing; raise a fault; the first `INIT.BC7`; or write
`TILE`, `BLK`, `RES` and `BITPOS` of its lane (spec R330, R344, R290, R25). -/
theorem exec_next_cases {i : Instr} {s t : State} (h : exec i s = .next t) :
    t = s ∨ ∃ l, Running s l ∧
      ((∃ c, t = raiseFault s l c) ∨
        (i = .initBc7 ∧ s.bc7Ready = false ∧
          t = { s with opt1 := opt1Table, opt7 := opt7Table, bc7Ready := true }) ∨
        ∃ (tile : TileBuf) (blk : Block) (res : BitVec 64) (bp : BitVec 8),
          t = putLane s { l with tile := tile, blk := blk, res := res, bitpos := bp } ∧
            (l.bitpos.toNat ≤ 128 → bp.toNat ≤ 128)) := by
  obtain ⟨l, hl, ⟨-, ht⟩ | hf⟩ := exec_next h
  · exact .inl ht
  · obtain ⟨t', ht', hcases⟩ := exec_running_cases i ⟨hl, hf⟩
    cases ht'.symm.trans h
    exact hcases.imp_right fun hc => ⟨l, ⟨hl, hf⟩, hc⟩

/-- A word that is no command does nothing on a halted lane and raises `ILLEGAL_CMD` on a running one (spec R74,
R75, R330). -/
theorem illegalCommand_next {s t : State} (h : illegalCommand s = .next t) :
    t = s ∨ ∃ l, Running s l ∧ t = raiseFault s l .illegalCmd := by
  obtain ⟨l, hl, ht⟩ := runCommand_next h
  cases hf : l.fault with
  | true => exact .inl (by simpa [hf] using ht)
  | false => exact .inr ⟨l, ⟨hl, hf⟩, by simpa [hf] using ht⟩

/-- A word written to `CMD` runs a command or is illegal (spec R330). -/
theorem issue_next {w : CmdWord} {s t : State} (h : issue w s = .next t) :
    (∃ i, exec i s = .next t) ∨ illegalCommand s = .next t := by
  unfold issue at h
  split at h
  · exact .inl ⟨_, h⟩
  · exact .inr h

/-- A command keeps `BC7_READY`, `OPT1` and `OPT7`, unless it is the first `INIT.BC7` (spec R31, R290). -/
theorem exec_tables {i : Instr} {s t : State} (h : exec i s = .next t) :
    (t.bc7Ready = s.bc7Ready ∧ t.opt1 = s.opt1 ∧ t.opt7 = s.opt7) ∨ (i = .initBc7 ∧ s.bc7Ready = false) := by
  rcases exec_next_cases h with rfl | ⟨l, -, ⟨c, rfl⟩ | ⟨hi, hr, -⟩ | ⟨_, _, _, _, rfl, -⟩⟩
  · exact .inl ⟨rfl, rfl, rfl⟩
  · exact .inl ⟨rfl, rfl, rfl⟩
  · exact .inr ⟨hi, hr⟩
  · exact .inl ⟨rfl, rfl, rfl⟩

/-- Once `BC7_READY` is 1, a word written to `CMD` keeps it, `OPT1` and `OPT7` (spec R27, R31, R290). -/
theorem issue_tables_of_ready {w : CmdWord} {s t : State} (hr : s.bc7Ready = true) (h : issue w s = .next t) :
    t.bc7Ready = s.bc7Ready ∧ t.opt1 = s.opt1 ∧ t.opt7 = s.opt7 := by
  rcases issue_next h with ⟨i, hi⟩ | hill
  · rcases exec_tables hi with hkept | ⟨-, hnot⟩
    · exact hkept
    · exact absurd hr (by simp [hnot])
  · rcases illegalCommand_next hill with rfl | ⟨l, -, rfl⟩ <;> exact ⟨rfl, rfl, rfl⟩

/-- A read changes only the model's own fields (spec R52, R55). -/
theorem serveRead_frame (s : State) (k : Nat) (l : Lane) (off size : Nat) :
    ∃ r, serveRead s k l off size = { s with cur := k, response := r } := by
  unfold serveRead
  split <;> exact ⟨_, rfl⟩

/-- A write that goes to a row of the window map stores into that row's register (spec R52, R55). -/
theorem serveWrite_row {off size : Nat} {row : WinRow} (h : accessRow off size = some row) (s : State) (k : Nat)
    (l : Lane) (v : BitVec 64) :
    serveWrite s k l off size v =
      { s with lanes := s.lanes.set k (regWrite l row.reg (off - row.start) size v), cur := k, response := .ack } := by
  simp [serveWrite, windowWrite, h]

/-- A write that goes to no row changes only the model's own fields (spec R54). -/
theorem serveWrite_illegal {off size : Nat} (h : accessRow off size = none) (s : State) (k : Nat) (l : Lane)
    (v : BitVec 64) : serveWrite s k l off size v = { s with cur := k, response := .error } := by
  simp [serveWrite, windowWrite, h]

/-- A write other than a command keeps `BC7_READY`, `OPT1` and `OPT7` (spec R38, R55). -/
theorem serveWrite_tables (s : State) (k : Nat) (l : Lane) (off size : Nat) (v : BitVec 64) :
    (serveWrite s k l off size v).bc7Ready = s.bc7Ready ∧ (serveWrite s k l off size v).opt1 = s.opt1 ∧
      (serveWrite s k l off size v).opt7 = s.opt7 := by
  cases h : accessRow off size with
  | none => simp [serveWrite_illegal h]
  | some row => simp [serveWrite_row h]

/-- A step that serves the host's write of anything but a command word serves that write on its lane (spec R38, R50,
R55). -/
theorem step_hostWrite {s : State} {k off size : Nat} {v : BitVec 64} {rest : List Txn} {l : Lane}
    (hp : s.pending = hostWrite s.params k off size v :: rest) (hl : s.lanes[k]? = some l) (hoff : off < 256)
    (hcmd : off ≠ cmdOffset) :
    step s = .next (serveWrite { s with pending := rest } k l off size v) := by
  have hk : k < s.lanes.length := (List.getElem?_eq_some_iff.mp hl).1
  have hloc := locate_busAddr s.params s.lanes.length k off hk hoff
  simp [step, takeInput, hp, hostWrite, serve, hloc, hl, hcmd]

/-- A step that serves the host's write to a row of the window map stores into that row's register and changes
nothing else of the unit (spec R52, R55). -/
theorem step_hostWrite_row {s : State} {k off size : Nat} {v : BitVec 64} {rest : List Txn} {l : Lane} {row : WinRow}
    (hp : s.pending = hostWrite s.params k off size v :: rest) (hl : s.lanes[k]? = some l)
    (hrow : accessRow off size = some row) (hoff : off < 256) (hcmd : off ≠ cmdOffset) :
    step s = .next { s with pending := rest,
                            lanes := s.lanes.set k (regWrite l row.reg (off - row.start) size v),
                            cur := k, response := .ack } := by
  rw [step_hostWrite hp hl hoff hcmd, serveWrite_row hrow]

end Sys2Proof.Machine
end

section
/-! SUPPORT. The window map (R51): its rows do not overlap, so an offset names one register. -/

namespace Sys2Proof.Machine

/-- Two rows of the window map are the same or apart (spec R51). -/
theorem windowMap_disjoint : ∀ r ∈ windowMap, ∀ r' ∈ windowMap,
    r = r' ∨ r.start + r.bytes ≤ r'.start ∨ r'.start + r'.bytes ≤ r.start := by decide

/-- A search of the window map that only accepts rows holding the offset finds the row it accepts (spec R51). -/
theorem windowMap_find? {p : WinRow → Bool} {off : Nat} {row : WinRow}
    (hp : ∀ r, p r = true → r.start ≤ off ∧ off < r.start + r.bytes) (hm : row ∈ windowMap) (hrow : p row = true) :
    windowMap.find? p = some row := by
  obtain ⟨found, hfound⟩ := Option.isSome_iff_exists.mp (List.find?_isSome.mpr ⟨row, hm, hrow⟩)
  have hin := hp found (List.find?_some hfound)
  have hin' := hp row hrow
  rcases windowMap_disjoint found (List.mem_of_find?_eq_some hfound) row hm with rfl | hlt | hlt
  · exact hfound
  · omega
  · omega

/-- An aligned access of a size the row serves, wholly in the row, goes to that row (spec R51, R54). -/
theorem accessRow_eq_some {off size : Nat} {row : WinRow} (hm : row ∈ windowMap)
    (hsize : size = 1 ∨ size = 2 ∨ size = 4 ∨ size = 8) (hal : off % size = 0) (hlo : row.start ≤ off)
    (hhi : off + size ≤ row.start + row.bytes) (hany : row.anySize = true ∨ size = 4) :
    accessRow off size = some row := by
  rw [accessRow, if_pos ⟨hsize, hal⟩]
  refine windowMap_find? (off := off) (fun r hr => ?_) hm ?_
  · simp only [rowServes, Bool.and_eq_true, decide_eq_true_eq] at hr
    omega
  · simp [rowServes, hlo, hhi, hany]

/-- A legal access at the offset of a 32-bit register has size 4 (spec R51, R54). -/
theorem LegalAccess.size_eq_four {off size : Nat} (h : LegalAccess off size) (hoff : off ∈ wordOffsets) :
    size = 4 := by
  obtain ⟨hsize, -, hrange⟩ := h
  simp only [wordOffsets, List.mem_cons, List.not_mem_nil, or_false] at hoff hrange
  omega

/-- A legal access lies in the window (spec R50, R54). -/
theorem LegalAccess.off_lt {off size : Nat} (h : LegalAccess off size) : off < 256 := by
  obtain ⟨hsize, -, hrange⟩ := h
  simp only [wordOffsets, List.mem_cons, List.not_mem_nil, or_false] at hrange
  omega

/-- A legal access at the offset of a 32-bit register goes to that register's row (spec R51). -/
theorem LegalAccess.accessRow_word {size : Nat} {row : WinRow} (h : LegalAccess row.start size)
    (hoff : row.start ∈ wordOffsets) (hm : row ∈ windowMap) (hbytes : row.bytes = 4) :
    accessRow row.start size = some row := by
  have hfour := h.size_eq_four hoff
  obtain ⟨hsize, hal, -⟩ := h
  exact accessRow_eq_some hm hsize hal le_rfl (by omega) (.inr hfour)

/-- A legal access to `RES`, `STATUS`, `ID` or a reserved offset goes to the row of a register that ignores writes
(spec R55). -/
theorem LegalAccess.accessRow_readOnly {off size : Nat} (h : LegalAccess off size)
    (hoff : (0x58 ≤ off ∧ off < 0x60) ∨ off = 0x68 ∨ 0x80 ≤ off) :
    ∃ row, accessRow off size = some row ∧ ∀ l k n v, regWrite l row.reg k n v = l := by
  obtain ⟨hsize, hal, hrange⟩ := id h
  simp only [wordOffsets, List.mem_cons, List.not_mem_nil, or_false] at hrange
  rcases hoff with hres | rfl | hconst
  · exact ⟨⟨.res, 0x58, 8, true⟩,
      accessRow_eq_some (by decide) hsize hal hres.1 (by dsimp only; omega) (.inl rfl), fun _ _ _ _ => regWrite_res ..⟩
  · exact ⟨⟨.status, 0x68, 4, false⟩, h.accessRow_word (row := ⟨.status, 0x68, 4, false⟩) (by decide) (by decide) rfl,
      fun _ _ _ _ => regWrite_status ..⟩
  rcases Nat.lt_or_ge off 0x84 with hid | hreserved
  · obtain rfl : off = 0x80 := by omega
    exact ⟨⟨.id, 0x80, 4, false⟩, h.accessRow_word (row := ⟨.id, 0x80, 4, false⟩) (by decide) (by decide) rfl,
      fun _ _ _ _ => regWrite_id ..⟩
  · exact ⟨⟨.reserved, 0x84, 124, true⟩,
      accessRow_eq_some (by decide) hsize hal hreserved (by dsimp only; omega) (.inl rfl),
      fun _ _ _ _ => regWrite_reserved ..⟩

/-- A step that serves the host's legal write to a 32-bit register stores into that register and changes nothing else
of the unit (spec R51, R55). -/
theorem step_hostWrite_word {s : State} {k off size : Nat} {v : BitVec 64} {rest : List Txn} {l : Lane} (row : WinRow)
    (hp : s.pending = hostWrite s.params k off size v :: rest) (hl : s.lanes[k]? = some l)
    (hlegal : LegalAccess off size) (hoff : off = row.start)
    (hrow : row ∈ windowMap ∧ row.start ∈ wordOffsets ∧ row.bytes = 4 ∧ row.start ≠ cmdOffset) :
    step s = .next { s with pending := rest, lanes := s.lanes.set k (regWrite l row.reg 0 size v),
                            cur := k, response := .ack } := by
  subst hoff
  obtain ⟨hm, hword, hbytes, hcmd⟩ := hrow
  simpa using step_hostWrite_row hp hl (hlegal.accessRow_word hword hm hbytes) hlegal.off_lt hcmd

/-- Byte `k` of a row of the window is byte `k` of the row's register (spec R51, R52). -/
theorem windowByte_row (ready : Bool) (l : Lane) {row : WinRow} {k : Nat} (hm : row ∈ windowMap) (hk : k < row.bytes) :
    windowByte ready l (row.start + k) = regByte ready l row.reg k := by
  have hfind : windowMap.find? (fun r => decide (r.start ≤ row.start + k ∧ row.start + k < r.start + r.bytes)) =
      some row :=
    windowMap_find? (fun r hr => by simpa using hr) hm (by simpa using hk)
  unfold windowByte
  rw [hfind]
  simp

/-- Widening a value leaves its bytes as they are (spec R52). -/
theorem byteOf_setWidth {n m : Nat} (x : BitVec n) (h : n ≤ m) (k : Nat) : byteOf (x.setWidth m) k = byteOf x k := by
  apply BitVec.eq_of_getLsbD_eq
  intro i hi
  simp only [byteOf_getLsbD, BitVec.getLsbD_setWidth]
  by_cases hm : 8 * k + i < m
  · simp [hm]
  · simp [BitVec.getLsbD_of_ge x (8 * k + i) (by omega)]

/-- The bytes above a value's width are 0 (spec R52). -/
theorem byteOf_eq_zero {n : Nat} (x : BitVec n) {k : Nat} (h : n ≤ 8 * k) : byteOf x k = 0#8 := by
  apply BitVec.eq_of_getLsbD_eq
  intro i hi
  simp [byteOf_getLsbD, BitVec.getLsbD_of_ge x (8 * k + i) (by omega)]

/-- A 16-bit register shown in four bytes of the window: its two bytes, then two bytes 0 (spec R28, R51). -/
theorem windowByte_weight (ready : Bool) (l : Lane) {row : WinRow} {w : BitVec 16} (hm : row ∈ windowMap)
    (hbytes : row.bytes = 4) (hshow : ∀ k, regByte ready l row.reg k = byteOf (w.setWidth 32) k) :
    ∀ k < 2, windowByte ready l (row.start + k) = byteOf w k ∧ windowByte ready l (row.start + 2 + k) = 0#8 := by
  intro k hk
  have hwiden := byteOf_setWidth w (m := 32) (by decide)
  constructor
  · rw [windowByte_row ready l hm (by omega), hshow, hwiden]
  · rw [Nat.add_assoc, windowByte_row ready l hm (by omega), hshow, hwiden, byteOf_eq_zero w (by omega)]

end Sys2Proof.Machine
end

section
/-! SUPPORT. The fields of `CTRL`, `BITPOS` and `STATUS` as numbers (R25, R26, R27). -/

namespace Sys2Proof.Machine

/-- `BC7_EFFORT` as a number (spec R26). -/
theorem ctrlEffort_eq (c : BitVec 32) : ctrlEffort c = c.toNat / 8 % 8 := by
  simp [ctrlEffort, Nat.shiftRight_eq_div_pow]

/-- `BC7_MAXPART` as a number (spec R26). -/
theorem ctrlMaxPart_eq (c : BitVec 32) : ctrlMaxPart c = c.toNat / 64 % 128 := by
  simp [ctrlMaxPart, Nat.shiftRight_eq_div_pow]

/-- What a write of `CTRL` stores, field by field (spec R26). -/
theorem legalCtrl_fields (v : BitVec 32) :
    ctrlDither (legalCtrl v) = ctrlDither v ∧ ctrlEtc2Th (legalCtrl v) = ctrlEtc2Th v ∧
      ctrlPrune (legalCtrl v) = ctrlPrune v ∧ ctrlEffort (legalCtrl v) = legalEffort (ctrlEffort v) ∧
      ctrlMaxPart (legalCtrl v) = legalMaxPart (ctrlMaxPart v) :=
  ctrlWord_fields _ _ _ _ _ (legalEffort_lt _) (legalMaxPart_lt _)

/-- A legalised effort is the value written, or 4 if that is above 4 (spec R26). -/
theorem legalEffort_eq_min (e : Nat) : legalEffort e = min e 4 := by
  unfold legalEffort
  split <;> omega

/-- Bits 31..13 of a stored `CTRL` are 0 (spec R26). -/
theorem legalCtrl_toNat_lt (v : BitVec 32) : (legalCtrl v).toNat < 2 ^ 13 := by
  have hd := (ctrlDither v).toNat_le
  have ht := (ctrlEtc2Th v).toNat_le
  have hp := (ctrlPrune v).toNat_le
  have he := legalEffort_lt (ctrlEffort v)
  have hm := legalMaxPart_lt (ctrlMaxPart v)
  simp only [legalCtrl, ctrlWord, BitVec.toNat_ofNat]
  omega

/-- What a write of `BITPOS` stores is the value written, or 128 if that is above 128 (spec R25). -/
theorem legalBitpos_toNat (v : BitVec 32) : (legalBitpos v).toNat = min v.toNat 128 := by
  unfold legalBitpos
  split
  · simp only [BitVec.toNat_ofNat]
    omega
  · simp only [BitVec.toNat_setWidth]
    omega

/-- `STATUS` as a number (spec R27). -/
theorem statusWord_toNat (ready : Bool) (l : Lane) :
    (statusWord ready l).toNat = ready.toNat + 2 * l.fault.toNat + 16 * l.cause.toNat := by
  have hr := ready.toNat_le
  have hf := l.fault.toNat_le
  have hc := l.cause.isLt
  simp only [statusWord, BitVec.toNat_ofNat]
  omega

/-- The low bits of `STATUS`: `BC7_READY`, `FAULT`, and `BUSY` and bit 3, which are always 0 (spec R27). -/
theorem statusWord_low_bits (ready : Bool) (l : Lane) :
    (statusWord ready l).getLsbD 0 = ready ∧ (statusWord ready l).getLsbD 1 = l.fault ∧
      (statusWord ready l).getLsbD 2 = false ∧ (statusWord ready l).getLsbD 3 = false := by
  simp only [BitVec.getLsbD, statusWord_toNat, Nat.testBit_eq_decide_div_mod_eq]
  cases ready <;> cases l.fault <;> simp <;> omega

/-- Bits 7..4 of `STATUS` are `CAUSE` (spec R27). -/
theorem statusWord_cause (ready : Bool) (l : Lane) : (statusWord ready l).extractLsb' 4 4 = l.cause := by
  have hr := ready.toNat_le
  have hf := l.fault.toNat_le
  have hc := l.cause.isLt
  apply BitVec.eq_of_toNat_eq
  simp only [BitVec.extractLsb'_toNat, statusWord_toNat, Nat.shiftRight_eq_div_pow]
  omega

end Sys2Proof.Machine
end

section
/-! SUPPORT. The invariant: which operations on a lane keep `LaneInv`, and which on a state keep `Inv` (R25, R26, R27,
R31). -/

namespace Sys2Proof.Machine

/-- A lane right after reset is as the invariant says (spec R37). -/
theorem laneInv_reset : LaneInv Lane.reset := by
  refine ⟨by decide, by decide, fun _ => rfl, fun hf => ?_⟩
  cases hf

/-- The code of a cause is one of 1 to 4 (spec R341). -/
theorem causeCode_bounds (c : Cause) : 1 ≤ (causeCode c).toNat ∧ (causeCode c).toNat ≤ 4 := by
  cases c <;> decide

/-- Raising a fault keeps the invariant of the lane (spec R344). -/
theorem LaneInv.laneFaulted {l : Lane} (h : LaneInv l) (c : Cause) : LaneInv (laneFaulted l c) := by
  obtain ⟨hbitpos, hctrl, -, -⟩ := h
  refine ⟨hbitpos, hctrl, fun hf => ?_, fun _ => causeCode_bounds c⟩
  cases hf

/-- Writing the registers a command may write keeps the invariant of the lane when the new `BITPOS` is legal (spec
R25). -/
theorem LaneInv.writeData {l : Lane} (h : LaneInv l) (tile : TileBuf) (blk : Block) (res : BitVec 64) {bp : BitVec 8}
    (hbp : bp.toNat ≤ 128) : LaneInv { l with tile := tile, blk := blk, res := res, bitpos := bp } := by
  obtain ⟨-, hctrl, hrunning, hhalted⟩ := h
  exact ⟨hbp, hctrl, hrunning, hhalted⟩

/-- A host write keeps the invariant of the lane: `BITPOS` and `CTRL` are stored legalised, and `STATUS` ignores
writes (spec R25, R26, R55). -/
theorem LaneInv.regWrite {l : Lane} (h : LaneInv l) (reg : WinReg) (k size : Nat) (v : BitVec 64) :
    LaneInv (regWrite l reg k size v) := by
  obtain ⟨hbitpos, hctrl, hrunning, hhalted⟩ := h
  cases reg with
  | bitpos =>
    rw [regWrite_bitpos]
    exact ⟨legalBitpos_le _, hctrl, hrunning, hhalted⟩
  | ctrl =>
    rw [regWrite_ctrl]
    exact ⟨hbitpos, legalCtrl_legalCtrl _, hrunning, hhalted⟩
  | _ => simpa [LaneInv] using ⟨hbitpos, hctrl, hrunning, hhalted⟩

/-- The reset state of a device with a lane is as the invariant says (spec R37). -/
theorem inv_resetWith (n : Nat) (p : Params) (hn : 0 < n) : Inv (State.resetWith n p) := by
  refine ⟨by simpa [State.resetWith] using hn, fun l hl => ?_, fun hready => ?_⟩
  · obtain rfl : l = Lane.reset := List.eq_of_mem_replicate hl
    exact laneInv_reset
  · cases hready

/-- The reset input gives a state as the invariant says, on any device with a lane (spec R370). -/
theorem inv_resetDevice (s : State) (h : 0 < s.lanes.length) : Inv (resetDevice s) :=
  inv_resetWith s.lanes.length s.params h

/-- Every lane of a state with the invariant is as `LaneInv` says. -/
theorem Inv.lane {s : State} (h : Inv s) {k : Nat} {l : Lane} (hl : s.lanes[k]? = some l) : LaneInv l := by
  obtain ⟨-, hlanes, -⟩ := h
  exact hlanes l (List.mem_of_getElem? hl)

/-- The invariant does not look at the inputs still waiting. -/
theorem Inv.withPending {s : State} (h : Inv s) (rest : List Txn) : Inv { s with pending := rest } := h

/-- An access that finds lane `k` and changes only `cur` and the answer keeps the invariant. -/
theorem Inv.access {s : State} (h : Inv s) {k : Nat} {l : Lane} (hl : s.lanes[k]? = some l) (r : Response) :
    Inv { s with cur := k, response := r } := by
  obtain ⟨-, hlanes, htables⟩ := h
  obtain ⟨hk, -⟩ := List.getElem?_eq_some_iff.mp hl
  exact ⟨hk, hlanes, htables⟩

/-- Replacing the executing lane by one as `LaneInv` says keeps the invariant. -/
theorem Inv.putLane {s : State} (h : Inv s) {l : Lane} (hl : LaneInv l) : Inv (putLane s l) := by
  obtain ⟨hcur, hlanes, htables⟩ := h
  refine ⟨by simpa using hcur, fun l' hl' => ?_, htables⟩
  rcases List.mem_or_eq_of_mem_set hl' with hold | rfl
  · exact hlanes l' hold
  · exact hl

/-- Raising a fault keeps the invariant (spec R344). -/
theorem Inv.raiseFault {s : State} (h : Inv s) {l : Lane} (hl : curLane s = some l) (c : Cause) :
    Inv (raiseFault s l c) :=
  h.putLane ((h.lane hl).laneFaulted c)

/-- The tables `INIT.BC7` writes are the defined ones (spec R31, R290). -/
theorem Inv.initTables {s : State} (h : Inv s) :
    Inv { s with opt1 := opt1Table, opt7 := opt7Table, bc7Ready := true } := by
  obtain ⟨hcur, hlanes, -⟩ := h
  exact ⟨hcur, hlanes, fun _ => ⟨rfl, rfl⟩⟩

/-- Every command keeps the invariant. -/
theorem exec_keeps_inv {i : Instr} {s t : State} (hs : Inv s) (h : exec i s = .next t) : Inv t := by
  rcases exec_next_cases h with rfl | ⟨l, ⟨hl, -⟩, ⟨c, rfl⟩ | ⟨-, -, rfl⟩ | ⟨tile, blk, res, bp, rfl, hbp⟩⟩
  · exact hs
  · exact hs.raiseFault hl c
  · exact hs.initTables
  · have hlane := hs.lane hl
    exact hs.putLane (hlane.writeData tile blk res (hbp hlane.1))

/-- Every word written to `CMD` keeps the invariant. -/
theorem issue_keeps_inv {w : CmdWord} {s t : State} (hs : Inv s) (h : issue w s = .next t) : Inv t := by
  rcases issue_next h with ⟨i, hi⟩ | hill
  · exact exec_keeps_inv hs hi
  · rcases illegalCommand_next hill with rfl | ⟨l, ⟨hl, -⟩, rfl⟩
    · exact hs
    · exact hs.raiseFault hl _

/-- A write other than a command keeps the invariant (spec R54, R55). -/
theorem serveWrite_keeps_inv {s : State} (hs : Inv s) {k : Nat} {l : Lane} (hl : s.lanes[k]? = some l)
    (off size : Nat) (v : BitVec 64) : Inv (serveWrite s k l off size v) := by
  cases hrow : accessRow off size with
  | none =>
    rw [serveWrite_illegal hrow]
    exact hs.access hl .error
  | some row =>
    rw [serveWrite_row hrow]
    exact (hs.access hl .ack).putLane ((hs.lane hl).regWrite row.reg _ size v)

/-- Every step keeps the invariant. -/
theorem step_keeps_inv {s t : State} (hs : Inv s) (h : step s = .next t) : Inv t := by
  rcases step_cases h with ⟨-, rfl⟩ | ⟨rest, ⟨-, rfl⟩ | ⟨_, size, k, off, l, -, -, hl, rfl⟩ |
    ⟨_, size, v, k, off, l, -, -, hl, ⟨-, rfl⟩ | ⟨-, -, hissue⟩⟩⟩
  · exact hs
  · exact inv_resetDevice _ (Nat.zero_lt_of_lt hs.1)
  · obtain ⟨r, hr⟩ := serveRead_frame { s with pending := rest } k l off size
    rw [hr]
    exact (hs.withPending rest).access hl r
  · exact serveWrite_keeps_inv (hs.withPending rest) hl off size v
  · exact issue_keeps_inv ((hs.withPending rest).access hl .ack) hissue

end Sys2Proof.Machine
end

section
/-! The obligations of the state family (10_state.md). -/

namespace Sys2Proof.Machine

/-- Settles O14: each kind of step keeps the invariant. -/
theorem invariantKeptByEveryStep : Obligations.InvariantKeptByEveryStep := by
  unfold Obligations.InvariantKeptByEveryStep
  intro s t hs h
  exact step_keeps_inv hs h

/-- Settles O12: only the first `INIT.BC7` and reset write the shared BC7 context. -/
theorem readyTablesStayUntilReset : Obligations.ReadyTablesStayUntilReset := by
  unfold Obligations.ReadyTablesStayUntilReset
  intro s t hready hreset h
  rcases step_cases h with ⟨-, rfl⟩ | ⟨rest, ⟨hp, -⟩ | ⟨_, size, k, off, l, -, -, -, rfl⟩ |
    ⟨_, size, v, k, off, l, -, -, -, ⟨-, rfl⟩ | ⟨-, -, hissue⟩⟩⟩
  · exact ⟨hready, rfl, rfl⟩
  · exact absurd (by simp [hp]) hreset
  · obtain ⟨r, hr⟩ := serveRead_frame { s with pending := rest } k l off size
    rw [hr]
    exact ⟨hready, rfl, rfl⟩
  · obtain ⟨hr, h1, h7⟩ := serveWrite_tables { s with pending := rest } k l off size v
    exact ⟨hr.trans hready, h1, h7⟩
  · obtain ⟨hr, h1, h7⟩ :=
      issue_tables_of_ready (s := { s with pending := rest, cur := k, response := .ack }) hready hissue
    exact ⟨hr.trans hready, h1, h7⟩

/-- Settles O16: a command replaces its own lane or writes the shared tables, and the latter only in `INIT.BC7`. -/
theorem commandsKeepOtherLanes : Obligations.CommandsKeepOtherLanes := by
  unfold Obligations.CommandsKeepOtherLanes
  intro i s t h
  have htables : i ≠ .initBc7 → t.bc7Ready = s.bc7Ready ∧ t.opt1 = s.opt1 ∧ t.opt7 = s.opt7 := fun hi =>
    (exec_tables h).resolve_right fun hinit => hi hinit.1
  rcases exec_next_cases h with rfl | ⟨l, -, ⟨c, rfl⟩ | ⟨-, -, rfl⟩ | ⟨_, _, _, _, rfl, -⟩⟩
  · exact ⟨rfl, fun _ _ => rfl, rfl, rfl, rfl, rfl, htables⟩
  · exact ⟨List.length_set, putLane_other s _, rfl, rfl, rfl, rfl, htables⟩
  · exact ⟨rfl, fun _ _ => rfl, rfl, rfl, rfl, rfl, htables⟩
  · exact ⟨List.length_set, putLane_other s _, rfl, rfl, rfl, rfl, htables⟩

/-- Settles O58: each offset names one row of the window map, and the row's register stores the legalised value. -/
theorem registerWritesAreLegalised : Obligations.RegisterWritesAreLegalised := by
  unfold Obligations.RegisterWritesAreLegalised
  intro s k off size v rest l hp hl hlegal after
  have hword := step_hostWrite_word (hp := hp) (hl := hl) (hlegal := hlegal)
  refine ⟨fun hoff => ?_, fun hoff => ?_, fun hoff => ?_, fun hoff => ?_, fun hoff => ?_, fun hoff => ?_,
    fun hoff => ?_⟩
  · refine ⟨legalBitpos (v.setWidth 32), ?_, ?_⟩
    · exact hword ⟨.bitpos, 0x60, 4, false⟩ hoff (by decide)
    · rw [legalBitpos_toNat, BitVec.toNat_setWidth]
  · obtain ⟨hdither, hth, hprune, heffort, hmaxPart⟩ := legalCtrl_fields (v.setWidth 32)
    have he : (v.setWidth 32).toNat / 8 % 8 = v.toNat / 8 % 8 := by
      rw [BitVec.toNat_setWidth]; omega
    have hm : (v.setWidth 32).toNat / 64 % 128 = v.toNat / 64 % 128 := by
      rw [BitVec.toNat_setWidth]; omega
    refine ⟨legalCtrl (v.setWidth 32), ?_, legalCtrl_toNat_lt _, ?_, ?_, ?_, ?_, ?_⟩
    · exact hword ⟨.ctrl, 0x64, 4, false⟩ hoff (by decide)
    · rw [hdither]; simp [ctrlDither]
    · rw [hth]; simp [ctrlEtc2Th]
    · rw [hprune]; simp [ctrlPrune]
    · rw [heffort, legalEffort_eq_min, ctrlEffort_eq, he]
    · rw [hmaxPart, ctrlMaxPart_eq, hm]; rfl
  · exact hword ⟨.w1, 0x70, 4, false⟩ hoff (by decide)
  · exact hword ⟨.w5, 0x74, 4, false⟩ hoff (by decide)
  · exact hword ⟨.w6, 0x78, 4, false⟩ hoff (by decide)
  · exact hword ⟨.w7, 0x7C, 4, false⟩ hoff (by decide)
  · obtain ⟨row, hrow, hkept⟩ := hlegal.accessRow_readOnly hoff
    have hcmd : off ≠ cmdOffset := by unfold cmdOffset; omega
    obtain ⟨hk, rfl⟩ := List.getElem?_eq_some_iff.mp hl
    rw [step_hostWrite_row hp hl hrow hlegal.off_lt hcmd, hkept, List.set_getElem_self]

/-- Settles O1: the reset state is written out from R37's table. -/
theorem resetValues : Obligations.ResetValues := by
  unfold Obligations.ResetValues
  intro n p
  refine ⟨List.length_replicate, rfl, rfl, fun l hl => ?_⟩
  obtain rfl : l = Lane.reset := List.eq_of_mem_replicate hl
  have hstatus : statusWord false Lane.reset = 0#32 := by decide
  refine ⟨fun k hk => ?_, fun k _ => ?_, rfl, rfl, rfl, rfl, by decide, by decide, by decide, by decide, by decide,
    rfl, rfl, rfl, rfl, rfl, rfl, hstatus⟩
  · simp [tileByte_eq _ _ hk, Lane.reset]
  · simp [byteOf, Lane.reset]

/-- Settles O13: the reset lane is legal, and nothing is asked of the tables before `INIT.BC7`. -/
theorem invariantAtReset : Obligations.InvariantAtReset := by
  unfold Obligations.InvariantAtReset
  exact ⟨inv_resetWith, inv_resetWith _ _ (by decide)⟩

/-- Settles O59: each group of offsets is a row of the window map, read through `windowByte_row`. -/
theorem windowBytesShowRegisters : Obligations.WindowBytesShowRegisters := by
  unfold Obligations.WindowBytesShowRegisters
  intro ready l
  refine ⟨fun i hi c hc => ?_, fun k hk => ?_, fun k hk => ⟨?_, ?_⟩, ?_, fun k hk => ?_, fun k hk => ?_, ?_⟩
  · have hbyte := windowByte_row ready l (row := ⟨.tile, 0x00, 64, true⟩) (k := 4 * i + c) (by decide)
      (by dsimp only; omega)
    rw [Nat.zero_add] at hbyte
    rw [hbyte]
    interval_cases c <;> rfl
  · exact windowByte_row ready l (row := ⟨.blk, 0x40, 16, true⟩) (by decide) hk
  · exact windowByte_row ready l (row := ⟨.arg, 0x50, 8, true⟩) (by decide) hk
  · exact windowByte_row ready l (row := ⟨.res, 0x58, 8, true⟩) (by decide) hk
  · have hbyte := windowByte_row ready l (row := ⟨.bitpos, 0x60, 4, false⟩) (k := 0) (by decide) (by decide)
    exact hbyte.trans ((byteOf_setWidth _ (by decide) _).trans (by simp [byteOf]))
  · have hbyte := windowByte_row ready l (row := ⟨.bitpos, 0x60, 4, false⟩) (k := 1 + k) (by decide)
      (by dsimp only; omega)
    rw [← Nat.add_assoc] at hbyte
    exact hbyte.trans ((byteOf_setWidth _ (by decide) _).trans (byteOf_eq_zero _ (by omega)))
  · exact windowByte_row ready l (row := ⟨.ctrl, 0x64, 4, false⟩) (by decide) hk
  · intro r hr
    simp only [List.mem_cons, List.not_mem_nil, or_false] at hr
    rcases hr with rfl | rfl | rfl | rfl
    · exact windowByte_weight ready l (row := ⟨.w1, 0x70, 4, false⟩) (by decide) rfl fun _ => rfl
    · exact windowByte_weight ready l (row := ⟨.w5, 0x74, 4, false⟩) (by decide) rfl fun _ => rfl
    · exact windowByte_weight ready l (row := ⟨.w6, 0x78, 4, false⟩) (by decide) rfl fun _ => rfl
    · exact windowByte_weight ready l (row := ⟨.w7, 0x7C, 4, false⟩) (by decide) rfl fun _ => rfl

/-- Settles O60: `STATUS` from its number, the other offsets from their rows of the window map. -/
theorem statusAndConstantsAsRead : Obligations.StatusAndConstantsAsRead := by
  unfold Obligations.StatusAndConstantsAsRead
  intro ready l
  obtain ⟨hready, hfault, hbusy, hbit3⟩ := statusWord_low_bits ready l
  have hlt : (statusWord ready l).toNat < 256 := by
    have hr := ready.toNat_le
    have hf := l.fault.toNat_le
    have hc := l.cause.isLt
    rw [statusWord_toNat]
    omega
  have hid : ∀ j < 4, windowByte ready l (0x80 + j) = byteOf Config.idValue j := fun j hj =>
    windowByte_row ready l (row := ⟨.id, 0x80, 4, false⟩) (by decide) hj
  exact ⟨hready, hfault, hbusy, hbit3, statusWord_cause ready l, hlt,
    fun j hj => windowByte_row ready l (row := ⟨.status, 0x68, 4, false⟩) (by decide) hj,
    (hid 0 (by decide)).trans (by decide), (hid 1 (by decide)).trans (by decide),
    (hid 2 (by decide)).trans (by decide), (hid 3 (by decide)).trans (by decide),
    fun j hj => windowByte_row ready l (row := ⟨.cmd, 0x6C, 4, false⟩) (by decide) hj,
    fun j hj => windowByte_row ready l (row := ⟨.reserved, 0x84, 124, true⟩) (by decide) hj⟩

end Sys2Proof.Machine
end

section
/-! SUPPORT. Bytes of numbers (R52): a number built from its bytes, a field of whole bytes written. -/

namespace Sys2Proof.Machine

/-- Bit `8j + i` of the number built from bytes is bit `i` of byte `j` (spec R52). -/
theorem bytesToNat_testBit (bs : List Byte) (j : Nat) {i : Nat} (hi : i < 8) :
    (bytesToNat bs).testBit (8 * j + i) = (bs.getD j 0#8).getLsbD i := by
  induction bs generalizing j with
  | nil => simp [bytesToNat]
  | cons b bs ih =>
    have hsum : bytesToNat (b :: bs) = 2 ^ 8 * bytesToNat bs + b.toNat := by rw [bytesToNat]; omega
    rw [hsum, Nat.testBit_two_pow_mul_add _ b.isLt]
    cases j with
    | zero => simp [hi, BitVec.getLsbD]
    | succ j =>
      have hge : ¬ 8 * (j + 1) + i < 8 := by omega
      have hsub : 8 * (j + 1) + i - 8 = 8 * j + i := by omega
      rw [if_neg hge, hsub, ih, List.getD_cons_succ]

/-- Byte `j` of the word built from bytes is the `j`-th of them, and 0 above them (spec R52). -/
theorem byteOf_ofNat_bytesToNat {n : Nat} (bs : List Byte) {j : Nat} (hj : 8 * j + 8 ≤ n) :
    byteOf (BitVec.ofNat n (bytesToNat bs)) j = bs.getD j 0#8 := by
  apply BitVec.eq_of_getLsbD_eq
  intro i hi
  have hlt : 8 * j + i < n := by omega
  rw [byteOf_getLsbD, BitVec.getLsbD_ofNat, bytesToNat_testBit bs j hi]
  simp [hi, hlt]

/-- Byte `j` after a field of whole bytes is written: the value's byte inside the field, the old one outside it
(spec R52). -/
theorem byteOf_setField {n : Nat} (x : BitVec n) (k size : Nat) (v : BitVec 64) {j : Nat} (hj : 8 * j + 8 ≤ n) :
    byteOf (setField x (8 * k) (8 * size) v.toNat) j =
      if k ≤ j ∧ j < k + size then byteOf v (j - k) else byteOf x j := by
  apply BitVec.eq_of_getLsbD_eq
  intro i hi
  rw [byteOf_getLsbD, setField_getLsbD _ _ _ _ _ (by omega)]
  by_cases hin : k ≤ j ∧ j < k + size
  · have hbits : 8 * k ≤ 8 * j + i ∧ 8 * j + i < 8 * k + 8 * size := by omega
    have hsub : 8 * j + i - 8 * k = 8 * (j - k) + i := by omega
    rw [if_pos hin, if_pos hbits, hsub, byteOf_getLsbD, BitVec.getLsbD]
  · have hbits : ¬ (8 * k ≤ 8 * j + i ∧ 8 * j + i < 8 * k + 8 * size) := by omega
    rw [if_neg hin, if_neg hbits, byteOf_getLsbD]

end Sys2Proof.Machine
end

section
/-! SUPPORT. The window by rows (R51): every offset lies in a row, the legal accesses are those a row serves (R54), and
what a store into `TILE`, `BLK` or `ARG` does to the bytes of every row (R52, R33). -/

namespace Sys2Proof.Machine

/-- The rows of the window map cover the window (spec R50, R51). -/
theorem windowMap_covers {j : Nat} (hj : j < 256) : ∃ row ∈ windowMap, row.start ≤ j ∧ j < row.start + row.bytes := by
  simp only [windowMap, List.exists_mem_cons_iff, List.not_mem_nil, false_and, exists_false]
  omega

/-- A register has one row of the window map (spec R51). -/
theorem windowMap_reg_inj : ∀ r ∈ windowMap, ∀ r' ∈ windowMap, r.reg = r'.reg → r = r' := by decide

/-- The rows below offset 0x58 are `TILE`, `BLK` and `ARG` (spec R51). -/
theorem windowMap_buffers : ∀ row ∈ windowMap, row.start < 0x58 →
    row = ⟨.tile, 0x00, 64, true⟩ ∨ row = ⟨.blk, 0x40, 16, true⟩ ∨ row = ⟨.arg, 0x50, 8, true⟩ := by decide

/-- A row of the window map is a 32-bit register, or takes every size and is one of the ranges of `TILE`, `BLK`, `ARG`,
`RES` and the reserved offsets (spec R51). -/
theorem windowMap_rows : ∀ row ∈ windowMap, (row.start ∈ wordOffsets ∧ row.bytes = 4 ∧ row.anySize = false) ∨
    (row.anySize = true ∧ (row.start, row.bytes) ∈
      [(0x00, 0x40), (0x40, 0x10), (0x50, 8), (0x58, 8), (0x84, 0x7C)]) := by
  decide

/-- The offsets of the 32-bit registers are those of rows of the window map (spec R51). -/
theorem wordOffsets_row : ∀ off ∈ wordOffsets, ∃ row ∈ windowMap, row.start = off ∧ row.bytes = 4 := by decide

/-- A legal access goes to a row of the window map (spec R51, R54). -/
theorem LegalAccess.exists_accessRow {off size : Nat} (h : LegalAccess off size) :
    ∃ row, accessRow off size = some row := by
  obtain ⟨hsize, hal, htile | ⟨hlo, hhi⟩ | ⟨hlo, hhi⟩ | ⟨hlo, hhi⟩ | ⟨hlo, hhi⟩ | ⟨-, hword⟩⟩ := id h
  · exact ⟨⟨.tile, 0x00, 64, true⟩, accessRow_eq_some (by decide) hsize hal off.zero_le htile (.inl rfl)⟩
  · exact ⟨⟨.blk, 0x40, 16, true⟩, accessRow_eq_some (by decide) hsize hal hlo hhi (.inl rfl)⟩
  · exact ⟨⟨.arg, 0x50, 8, true⟩, accessRow_eq_some (by decide) hsize hal hlo hhi (.inl rfl)⟩
  · exact ⟨⟨.res, 0x58, 8, true⟩, accessRow_eq_some (by decide) hsize hal hlo hhi (.inl rfl)⟩
  · exact ⟨⟨.reserved, 0x84, 124, true⟩, accessRow_eq_some (by decide) hsize hal hlo hhi (.inl rfl)⟩
  · obtain ⟨row, hm, rfl, hbytes⟩ := wordOffsets_row off hword
    exact ⟨row, h.accessRow_word hword hm hbytes⟩

/-- An access that goes to a row of the window map is legal (spec R51, R54). -/
theorem legalAccess_of_accessRow {off size : Nat} {row : WinRow} (h : accessRow off size = some row) :
    LegalAccess off size := by
  obtain ⟨hm, hsize, hal, hlo, hhi, hany⟩ := accessRow_some h
  refine ⟨hsize, hal, ?_⟩
  rcases windowMap_rows row hm with ⟨hword, hbytes, hfour⟩ | ⟨-, hrange⟩
  · have hs : size = 4 := hany.resolve_left (by simp [hfour])
    obtain rfl : off = row.start := by omega
    exact .inr (.inr (.inr (.inr (.inr ⟨hs, hword⟩))))
  · simp only [List.mem_cons, List.not_mem_nil, or_false, Prod.mk.injEq] at hrange
    omega

/-- The accesses that go to no row are those that are not legal (spec R54). -/
theorem accessRow_eq_none_iff {off size : Nat} : accessRow off size = none ↔ ¬LegalAccess off size := by
  constructor
  · intro hnone hlegal
    obtain ⟨row, hrow⟩ := hlegal.exists_accessRow
    cases hnone.symm.trans hrow
  · intro hill
    exact Option.eq_none_iff_forall_ne_some.mpr fun row hrow => hill (legalAccess_of_accessRow hrow)

/-- A store into `TILE`, `BLK` or `ARG` keeps what the host reads of every other register (spec R33, R55). -/
theorem regByte_regWrite_other (ready : Bool) (l : Lane) {row : WinRow} (hm : row ∈ windowMap)
    (hbuf : row.start < 0x58) {other : WinReg} (hne : other ≠ row.reg) (k size : Nat) (v : BitVec 64) (j : Nat) :
    regByte ready (regWrite l row.reg k size v) other j = regByte ready l other j := by
  rcases windowMap_buffers row hm hbuf with rfl | rfl | rfl
  · cases other with
    | tile => exact absurd rfl hne
    | _ => simp only [regWrite_tile, regByte, statusWord]
  · cases other with
    | blk => exact absurd rfl hne
    | _ => simp only [regWrite_blk, regByte, statusWord]
  · cases other with
    | arg => exact absurd rfl hne
    | _ => simp only [regWrite_arg, regByte, statusWord]

/-- The host reads byte `j` of the tile buffer as it stands there (spec R21, R51). -/
theorem regByte_tile (ready : Bool) (l : Lane) {j : Nat} (hj : j < 64) : regByte ready l .tile j = l.tile[j] := by
  simp [regByte, hj]

/-- A store into `TILE`, `BLK` or `ARG` replaces the addressed bytes of that buffer and no other (spec R52). -/
theorem regByte_regWrite_buffer (ready : Bool) (l : Lane) {row : WinRow} (hm : row ∈ windowMap)
    (hbuf : row.start < 0x58) (k size : Nat) (v : BitVec 64) {j : Nat} (hj : j < row.bytes) :
    regByte ready (regWrite l row.reg k size v) row.reg j =
      if k ≤ j ∧ j < k + size then byteOf v (j - k) else regByte ready l row.reg j := by
  rcases windowMap_buffers row hm hbuf with rfl | rfl | rfl
  · rw [regByte_tile ready _ hj, regByte_tile ready l hj, regWrite_tile]
    exact tileWrite_getElem l.tile k size v j hj
  · rw [regWrite_blk]
    exact byteOf_setField l.blk k size v (by dsimp only at hj; omega)
  · rw [regWrite_arg]
    exact byteOf_setField l.arg k size v (by dsimp only at hj; omega)

/-- A store that goes to the row of `TILE`, `BLK` or `ARG` replaces exactly the addressed bytes of the window
(spec R52, R33). -/
theorem windowByte_regWrite_buffer (ready : Bool) (l : Lane) {off size : Nat} {row : WinRow}
    (hrow : accessRow off size = some row) (hbuf : row.start < 0x58) (v : BitVec 64) {j : Nat} (hj : j < 256) :
    windowByte ready (regWrite l row.reg (off - row.start) size v) j =
      if off ≤ j ∧ j < off + size then byteOf v (j - off) else windowByte ready l j := by
  obtain ⟨hm, -, -, hlo, hhi, -⟩ := accessRow_some hrow
  obtain ⟨found, hfound, hstart, hend⟩ := windowMap_covers hj
  obtain ⟨i, rfl⟩ := Nat.exists_eq_add_of_le hstart
  have hi : i < found.bytes := by omega
  rw [windowByte_row ready _ hfound hi, windowByte_row ready l hfound hi]
  by_cases hsame : found = row
  · subst hsame
    have hiff : (off ≤ found.start + i ∧ found.start + i < off + size) ↔
        (off - found.start ≤ i ∧ i < off - found.start + size) := by omega
    have hsub : found.start + i - off = i - (off - found.start) := by omega
    rw [regByte_regWrite_buffer ready l hm hbuf _ size v hi, hsub]
    exact if_congr hiff.symm rfl rfl
  · have hreg : found.reg ≠ row.reg := fun h => hsame (windowMap_reg_inj found hfound row hm h)
    have hapart := (windowMap_disjoint found hfound row hm).resolve_left hsame
    have hout : ¬ (off ≤ found.start + i ∧ found.start + i < off + size) := by omega
    rw [regByte_regWrite_other ready l hm hbuf hreg, if_neg hout]

/-- What a read that goes to a row answers: the window's bytes, then zero bytes (spec R52). -/
theorem windowRead_bytes (ready : Bool) (l : Lane) {off size : Nat} {row : WinRow}
    (hrow : accessRow off size = some row) : ∃ v, windowRead ready l off size = some v ∧
      ∀ j < 8, byteOf v j = if j < size then windowByte ready l (off + j) else 0#8 := by
  obtain ⟨hm, -, -, hlo, hhi, -⟩ := accessRow_some hrow
  refine ⟨_, by rw [windowRead, hrow, Option.map_some], fun j hj => ?_⟩
  rw [byteOf_ofNat_bytesToNat _ (by omega)]
  by_cases hin : j < size
  · have hoff : off + j = row.start + (off - row.start + j) := by omega
    rw [if_pos hin, hoff, windowByte_row ready l hm (by omega)]
    simp [hin]
  · simp [hin]

end Sys2Proof.Machine
end

section
/-! SUPPORT. The step that serves a host's access: what it does by the row the access goes to (R52, R54, R55). -/

namespace Sys2Proof.Machine

variable {s : State} {k off size : Nat} {v : BitVec 64} {rest : List Txn} {l : Lane}

/-- A step that serves the host's read serves it on its lane (spec R38, R50, R55). -/
theorem step_hostRead (hp : s.pending = hostRead s.params k off size :: rest) (hl : s.lanes[k]? = some l)
    (hoff : off < 256) : step s = .next (serveRead { s with pending := rest } k l off size) := by
  have hk : k < s.lanes.length := (List.getElem?_eq_some_iff.mp hl).1
  have hloc := locate_busAddr s.params s.lanes.length k off hk hoff
  simp [step, takeInput, hp, hostRead, serve, hloc, hl]

/-- A read that goes to no row changes only the model's own fields (spec R54). -/
theorem serveRead_illegal (h : accessRow off size = none) (s : State) (k : Nat) (l : Lane) :
    serveRead s k l off size = { s with cur := k, response := .error } := by
  simp [serveRead, windowRead, h]

/-- A step that serves the host's write of an illegal access, at `CMD` too, issues nothing and changes only the model's
own fields (spec R54). -/
theorem step_hostWrite_illegal (hp : s.pending = hostWrite s.params k off size v :: rest)
    (hl : s.lanes[k]? = some l) (hoff : off < 256) (hill : ¬LegalAccess off size) :
    step s = .next { s with pending := rest, cur := k, response := .error } := by
  have hk : k < s.lanes.length := (List.getElem?_eq_some_iff.mp hl).1
  have hloc := locate_busAddr s.params s.lanes.length k off hk hoff
  have hcmd : ¬(off = cmdOffset ∧ size = 4) := by
    rintro ⟨rfl, rfl⟩
    exact hill (by unfold LegalAccess; decide)
  simp [step, takeInput, hp, hostWrite, serve, hloc, hl, hcmd, serveWrite_illegal (accessRow_eq_none_iff.mpr hill)]

end Sys2Proof.Machine
end

section
/-! The obligations of the memory family (20_memory.md). -/

namespace Sys2Proof.Machine

/-- Settles O55: the read goes to one row of the window map, whose bytes are the window's. -/
theorem windowReadReturnsBytes : Obligations.WindowReadReturnsBytes := by
  unfold Obligations.WindowReadReturnsBytes
  intro s k off size rest l hp hl hlegal
  obtain ⟨row, hrow⟩ := hlegal.exists_accessRow
  obtain ⟨v, hread, hbytes⟩ := windowRead_bytes s.bc7Ready l hrow
  refine ⟨v, ?_, hbytes⟩
  rw [step_hostRead hp hl hlegal.off_lt]
  simp [serveRead, hread]

/-- Settles O56: an access that is not legal goes to no row of the window map. -/
theorem illegalAccessChangesNothing : Obligations.IllegalAccessChangesNothing := by
  unfold Obligations.IllegalAccessChangesNothing
  refine ⟨by unfold LegalAccess; decide, by unfold LegalAccess; decide, ?_⟩
  intro s k off size v rest hp hk hoff hill
  have hl := List.getElem?_eq_getElem hk
  rcases hp with hread | hwrite
  · rw [step_hostRead hread hl hoff, serveRead_illegal (accessRow_eq_none_iff.mpr hill)]
  · exact step_hostWrite_illegal hwrite hl hoff hill

/-- Settles O57: the write goes to the row of `TILE`, `BLK` or `ARG`, which the other rows of the window do not
overlap. -/
theorem bufferWriteReplacesBytes : Obligations.BufferWriteReplacesBytes := by
  unfold Obligations.BufferWriteReplacesBytes
  intro s k off size v rest l hp hl hlegal hbuf
  obtain ⟨row, hrow⟩ := hlegal.exists_accessRow
  obtain ⟨-, hsize, -, hlo, -⟩ := accessRow_some hrow
  have hcmd : off ≠ cmdOffset := by unfold cmdOffset; omega
  exact ⟨_, step_hostWrite_row hp hl hrow hlegal.off_lt hcmd,
    fun j hj => windowByte_regWrite_buffer s.bc7Ready l hrow (by omega) v hj⟩

end Sys2Proof.Machine
end

section
/-! SUPPORT. The opcode map as an encoding: the words a row matches, the rows by their opcodes, and the decoder as the
inverse of the encoder (R70, R71). -/

namespace Sys2Proof.Laws

open Sys2Proof.Machine

/-- The opcodes whose command has the operand `WIDTH` (spec R71). -/
def widthOpcodes : List Nat := [0x02, 0x03, 0x04]

/-- The opcodes whose command word is fixed whole (spec R71). -/
def fixedOpcodes : List Nat :=
  [0x00, 0x01, 0x05, 0x06, 0x08, 0x10, 0x11, 0x12, 0x13, 0x14, 0x15, 0x16, 0x17, 0x18, 0x19, 0x25, 0x26, 0x27, 0x28,
    0x29]

theorem widthOpcodes_lt : ∀ opc ∈ widthOpcodes, opc < 256 := by decide

theorem fixedOpcodes_lt : ∀ opc ∈ fixedOpcodes, opc < 256 := by decide

/-- A legal word is one whose opcode is in the map, with the fields that the opcode leaves at 0 (spec R74, R75). -/
theorem legalWord_iff (w : CmdWord) : LegalWord w ↔ w.toNat / 65536 = 0 ∧
    (w.toNat % 256 ∈ widthOpcodes ∨ (w.toNat / 256 % 256 = 0 ∧ w.toNat % 256 ∈ fixedOpcodes)) := Iff.rfl

/-- The field `WIDTH` as a quotient (spec R70). -/
theorem cmdWidth_eq (w : CmdWord) : cmdWidth w = w.toNat / 256 % 256 := by
  simp [cmdWidth, BitVec.extractLsb'_toNat, Nat.shiftRight_eq_div_pow]

theorem cmdWidth_lt (w : CmdWord) : cmdWidth w < 256 := (w.extractLsb' 8 8).isLt

/-- A word is the one built from an opcode and a width exactly when its three fields are these and 0 (spec R70). -/
theorem eq_cmdWord_iff {w : CmdWord} {opc n : Nat} (ho : opc < 256) (hn : n < 256) :
    w = cmdWord opc n ↔ w.toNat / 65536 = 0 ∧ w.toNat / 256 % 256 = n ∧ w.toNat % 256 = opc := by
  rw [← BitVec.toNat_inj, cmdWord, BitVec.toNat_ofNat]
  have hlt := w.isLt
  omega

/-- The mask of a command with a width keeps `OPC` (spec R71). -/
theorem cmdOpc_and_widthMask (w : CmdWord) : cmdOpc (w &&& 0xFFFF00FF#32) = cmdOpc w := by
  have hmask : cmdOpc 0xFFFF00FF#32 = BitVec.allOnes 8 := by decide
  unfold cmdOpc at hmask ⊢
  rw [BitVec.extractLsb'_and, hmask, BitVec.and_allOnes]

/-- The mask of a command with a width keeps `ZERO` (spec R71). -/
theorem cmdZero_and_widthMask (w : CmdWord) : cmdZero (w &&& 0xFFFF00FF#32) = cmdZero w := by
  have hmask : cmdZero 0xFFFF00FF#32 = BitVec.allOnes 16 := by decide
  unfold cmdZero at hmask ⊢
  rw [BitVec.extractLsb'_and, hmask, BitVec.and_allOnes]

/-- A row whose word is fixed matches that word only (spec R71). -/
theorem rowMatches_fixedRow (w pattern : CmdWord) (i : Instr) :
    rowMatches w (fixedRow pattern i) = true ↔ w = pattern := by
  have hmask : w &&& 0xFFFFFFFF#32 = w := BitVec.and_allOnes
  simp [rowMatches, fixedRow, hmask]

/-- A row with the operand `WIDTH` matches the words of its opcode, whatever their width (spec R71). -/
theorem rowMatches_widthRow (w : CmdWord) {opc : Nat} (ho : opc < 256) (build : Nat → Instr) :
    rowMatches w (widthRow (cmdWord opc 0) build) = true ↔ w = cmdWord opc (cmdWidth w) := by
  simp only [rowMatches, widthRow, beq_iff_eq]
  constructor
  · intro h
    have hopc := cmdOpc_and_widthMask w
    have hzero := cmdZero_and_widthMask w
    rw [h] at hopc hzero
    obtain ⟨hz, -, ho'⟩ := (eq_cmdWord_iff ho (n := 0) (by decide)).mp rfl
    simp only [cmdOpc, cmdZero, ← BitVec.toNat_inj, BitVec.extractLsb'_toNat, Nat.shiftRight_eq_div_pow] at hopc hzero
    rw [eq_cmdWord_iff ho (cmdWidth_lt w), cmdWidth_eq]
    have hlt := w.isLt
    omega
  · intro h
    rw [h]
    exact cmdWord_masked opc _ ho (cmdWidth_lt w)

/-- A row of the map, fixed or with a width, whose command the encoder writes under the row's opcode (spec R71). -/
inductive EncodedRow : OpRow → Prop
  | fixed (opc : Nat) (i : Instr) (hopc : opc ∈ fixedOpcodes) (hwf : i.wellFormed = true)
      (henc : encode i = cmdWord opc 0) : EncodedRow (fixedRow (cmdWord opc 0) i)
  | width (opc : Nat) (build : Nat → Instr) (hopc : opc ∈ widthOpcodes)
      (hwf : ∀ n, (build n).wellFormed = widthFits n) (henc : ∀ n, encode (build n) = cmdWord opc n) :
      EncodedRow (widthRow (cmdWord opc 0) build)

/-- The opcode map, row by row, agrees with the encoder (spec R71). -/
theorem opcodeMap_encodedRow : ∀ row ∈ opcodeMap, EncodedRow row := by
  simp only [opcodeMap, List.forall_mem_cons]
  exact ⟨.fixed 0x00 .nop (by decide) rfl rfl, .fixed 0x01 .clrblk (by decide) rfl rfl,
    .width 0x02 .setbits (by decide) (fun _ => rfl) (fun _ => rfl),
    .width 0x03 .getbits (by decide) (fun _ => rfl) (fun _ => rfl),
    .width 0x04 .chksize (by decide) (fun _ => rfl) (fun _ => rfl),
    .fixed 0x05 .fixboEtc (by decide) rfl rfl, .fixed 0x06 .bswap64 (by decide) rfl rfl,
    .fixed 0x08 .initBc7 (by decide) rfl rfl, .fixed 0x10 .encEtc1 (by decide) rfl rfl,
    .fixed 0x11 .encEtc2Rgb (by decide) rfl rfl, .fixed 0x12 .encEtc2Rgba (by decide) rfl rfl,
    .fixed 0x13 .encEtc2R11 (by decide) rfl rfl, .fixed 0x14 .encEtc2Rg11 (by decide) rfl rfl,
    .fixed 0x15 .encBc1 (by decide) rfl rfl, .fixed 0x16 .encBc3 (by decide) rfl rfl,
    .fixed 0x17 .encBc4 (by decide) rfl rfl, .fixed 0x18 .encBc5 (by decide) rfl rfl,
    .fixed 0x19 .encBc7 (by decide) rfl rfl, .fixed 0x25 .decBc1 (by decide) rfl rfl,
    .fixed 0x26 .decBc3 (by decide) rfl rfl, .fixed 0x27 .decBc4 (by decide) rfl rfl,
    .fixed 0x28 .decBc5 (by decide) rfl rfl, .fixed 0x29 .decBc7 (by decide) rfl rfl, by simp⟩

/-- Every opcode of a fixed word has its row (spec R71). -/
theorem exists_fixedRow : ∀ opc ∈ fixedOpcodes, ∃ i, fixedRow (cmdWord opc 0) i ∈ opcodeMap := by
  simp [fixedOpcodes, opcodeMap, fixedRow, widthRow, cmdWord]

/-- Every opcode of a command with a width has its row (spec R71). -/
theorem exists_widthRow : ∀ opc ∈ widthOpcodes, ∃ build, widthRow (cmdWord opc 0) build ∈ opcodeMap := by
  simp [widthOpcodes, opcodeMap, fixedRow, widthRow, cmdWord]

/-- A word that matches a row is the word of the command the row builds from it (spec R71, R73). -/
theorem EncodedRow.encode_build {row : OpRow} {w : CmdWord} (hrow : EncodedRow row) (hw : rowMatches w row = true) :
    (row.build (cmdWidth w)).wellFormed = true ∧ encode (row.build (cmdWidth w)) = w := by
  cases hrow with
  | fixed opc i hopc hwf henc =>
    rw [rowMatches_fixedRow] at hw
    exact ⟨hwf, henc.trans hw.symm⟩
  | width opc build hopc hwf henc =>
    rw [rowMatches_widthRow w (widthOpcodes_lt opc hopc)] at hw
    exact ⟨by simpa [widthRow, hwf, widthFits] using cmdWidth_lt w, (henc _).trans hw.symm⟩

/-- The pattern of a row that a word matches is the word's opcode (spec R71). -/
theorem EncodedRow.pattern_eq {row : OpRow} {w : CmdWord} (hrow : EncodedRow row) (hw : rowMatches w row = true) :
    row.pattern = cmdWord (w.toNat % 256) 0 := by
  cases hrow with
  | fixed opc i hopc hwf henc =>
    rw [rowMatches_fixedRow, eq_cmdWord_iff (fixedOpcodes_lt opc hopc) (by decide)] at hw
    obtain ⟨-, -, hopc'⟩ := hw
    rw [hopc', fixedRow]
  | width opc build hopc hwf henc =>
    have ho := widthOpcodes_lt opc hopc
    rw [rowMatches_widthRow w ho, eq_cmdWord_iff ho (cmdWidth_lt w)] at hw
    obtain ⟨-, -, hopc'⟩ := hw
    rw [hopc', widthRow]

/-- A word that matches a row is legal (spec R74, R75). -/
theorem EncodedRow.legalWord {row : OpRow} {w : CmdWord} (hrow : EncodedRow row) (hw : rowMatches w row = true) :
    LegalWord w := by
  rw [legalWord_iff]
  cases hrow with
  | fixed opc i hopc hwf henc =>
    rw [rowMatches_fixedRow, eq_cmdWord_iff (fixedOpcodes_lt opc hopc) (by decide)] at hw
    obtain ⟨hzero, hwidth, rfl⟩ := hw
    exact ⟨hzero, .inr ⟨hwidth, hopc⟩⟩
  | width opc build hopc hwf henc =>
    have ho := widthOpcodes_lt opc hopc
    rw [rowMatches_widthRow w ho, eq_cmdWord_iff ho (cmdWidth_lt w)] at hw
    obtain ⟨hzero, -, rfl⟩ := hw
    exact ⟨hzero, .inl hopc⟩

/-- A legal word matches a row (spec R71, R74, R75). -/
theorem exists_row_of_legalWord {w : CmdWord} (h : LegalWord w) : ∃ row ∈ opcodeMap, rowMatches w row = true := by
  obtain ⟨hzero, hopc | ⟨hwidth, hopc⟩⟩ := (legalWord_iff w).mp h
  · obtain ⟨build, hrow⟩ := exists_widthRow _ hopc
    have ho := widthOpcodes_lt _ hopc
    exact ⟨_, hrow, (rowMatches_widthRow w ho build).mpr
      ((eq_cmdWord_iff ho (cmdWidth_lt w)).mpr ⟨hzero, (cmdWidth_eq w).symm, rfl⟩)⟩
  · obtain ⟨i, hrow⟩ := exists_fixedRow _ hopc
    have ho := fixedOpcodes_lt _ hopc
    exact ⟨_, hrow, (rowMatches_fixedRow w _ i).mpr ((eq_cmdWord_iff ho (by decide)).mpr ⟨hzero, hwidth, rfl⟩)⟩

/-- No two rows of the map have the same pattern (spec R71). -/
theorem opcodeMap_patterns_nodup : (opcodeMap.map OpRow.pattern).Nodup := by decide

/-- A word matches at most one row (spec R71, R330). -/
theorem row_unique {w : CmdWord} {r r' : OpRow} (hr : r ∈ opcodeMap) (hr' : r' ∈ opcodeMap)
    (hw : rowMatches w r = true) (hw' : rowMatches w r' = true) : r = r' :=
  List.inj_on_of_nodup_map opcodeMap_patterns_nodup hr hr'
    (((opcodeMap_encodedRow r hr).pattern_eq hw).trans ((opcodeMap_encodedRow r' hr').pattern_eq hw').symm)

/-- The decoder reads the command of the one row that the word matches (spec R71). -/
theorem decode_eq_ok_iff {w : CmdWord} {i : Instr} :
    decode w = .ok i ↔ ∃ row ∈ opcodeMap, rowMatches w row = true ∧ row.build (cmdWidth w) = i := by
  unfold decode
  cases hfind : opcodeMap.find? (rowMatches w) with
  | some found =>
    have hmem := List.mem_of_find?_eq_some hfind
    have hmatch := List.find?_some hfind
    constructor
    · intro h
      exact ⟨found, hmem, hmatch, by simpa using h⟩
    · rintro ⟨row, hrow, hw, rfl⟩
      rw [row_unique hrow hmem hw hmatch]
  | none =>
    rw [List.find?_eq_none] at hfind
    constructor
    · intro h
      cases h
    · rintro ⟨row, hrow, hw, -⟩
      exact absurd hw (hfind row hrow)

/-- Every command is encodable (spec R71). -/
theorem encodable : ∀ i : Instr, Encodable.Statement i
  | .nop => Encodable.nop
  | .clrblk => Encodable.clrblk
  | .setbits width => Encodable.setbits width
  | .getbits width => Encodable.getbits width
  | .chksize bits => Encodable.chksize bits
  | .fixboEtc => Encodable.fixboEtc
  | .bswap64 => Encodable.bswap64
  | .initBc7 => Encodable.initBc7
  | .encEtc1 => Encodable.encEtc1
  | .encEtc2Rgb => Encodable.encEtc2Rgb
  | .encEtc2Rgba => Encodable.encEtc2Rgba
  | .encEtc2R11 => Encodable.encEtc2R11
  | .encEtc2Rg11 => Encodable.encEtc2Rg11
  | .encBc1 => Encodable.encBc1
  | .encBc3 => Encodable.encBc3
  | .encBc4 => Encodable.encBc4
  | .encBc5 => Encodable.encBc5
  | .encBc7 => Encodable.encBc7
  | .decBc1 => Encodable.decBc1
  | .decBc3 => Encodable.decBc3
  | .decBc4 => Encodable.decBc4
  | .decBc5 => Encodable.decBc5
  | .decBc7 => Encodable.decBc7

/-- The decoder is the inverse of the encoder (spec R71, R73). -/
theorem decode_eq_ok_iff_encode {w : CmdWord} {i : Instr} :
    decode w = .ok i ↔ i.wellFormed = true ∧ encode i = w := by
  rw [decode_eq_ok_iff]
  constructor
  · rintro ⟨row, hrow, hw, rfl⟩
    exact (opcodeMap_encodedRow row hrow).encode_build hw
  · rintro ⟨hwf, rfl⟩
    exact encodable i hwf

/-- The words the decoder takes for commands are the legal ones (spec R74, R75). -/
theorem exists_decode_eq_ok_iff (w : CmdWord) : (∃ i, decode w = .ok i) ↔ LegalWord w := by
  constructor
  · rintro ⟨i, hi⟩
    obtain ⟨row, hrow, hw, -⟩ := decode_eq_ok_iff.mp hi
    exact (opcodeMap_encodedRow row hrow).legalWord hw
  · intro h
    obtain ⟨row, hrow, hw⟩ := exists_row_of_legalWord h
    exact ⟨_, decode_eq_ok_iff.mpr ⟨row, hrow, hw, rfl⟩⟩

/-- A word that is not legal is issued as an illegal command (spec R74, R75, R330). -/
theorem issue_illegal {w : CmdWord} (h : ¬LegalWord w) (s : State) : issue w s = illegalCommand s := by
  unfold issue
  cases hdec : decode w with
  | ok i => exact absurd ((exists_decode_eq_ok_iff w).mp ⟨i, hdec⟩) h
  | error r => rfl

end Sys2Proof.Laws
end

section
/-! The obligations of the encoding family (30_encoding.md). -/

namespace Sys2Proof.Machine

open Sys2Proof.Laws

/-- Settles O5: every well-formed command's word matches a row that builds it, and no other row. -/
theorem decodeOfEncode : Obligations.DecodeOfEncode := by
  unfold Obligations.DecodeOfEncode
  intro i hwf
  exact decode_eq_ok_iff_encode.mpr ⟨hwf, rfl⟩

/-- Settles O6: what a row builds is encoded under the row's own opcode, and the opcode names the row. -/
theorem encodeOfDecode : Obligations.EncodeOfDecode := by
  unfold Obligations.EncodeOfDecode
  intro w
  refine ⟨fun i hi => decode_eq_ok_iff_encode.mp hi, fun r hr r' hr' hw hw' => ?_⟩
  rw [row_unique hr hr' hw hw']

/-- Settles O7: the rows' words are the legal words, and a word without a row raises `ILLEGAL_CMD`. -/
theorem illegalWordFaults : Obligations.IllegalWordFaults := by
  unfold Obligations.IllegalWordFaults
  intro w
  refine ⟨exists_decode_eq_ok_iff w, fun hill s l hrun => ?_⟩
  rw [issue_illegal hill, illegalCommand, runCommand_running hrun]
  rfl

/-- Settles O4: nine words are the encoder's words of their commands; the other three match no row. -/
theorem decodeListedWords : Obligations.DecodeListedWords := by
  unfold Obligations.DecodeListedWords
  exact ⟨decodeOfEncode .nop rfl, decodeOfEncode (.setbits 64) rfl, decodeOfEncode (.getbits 6) rfl,
    decodeOfEncode (.chksize 128) rfl, decodeOfEncode .fixboEtc rfl, decodeOfEncode .initBc7 rfl,
    decodeOfEncode .encEtc2Rgba rfl, decodeOfEncode .encBc7 rfl, decodeOfEncode .decBc7 rfl,
    by decide, by decide, by decide⟩

end Sys2Proof.Machine
end

section
/-! SUPPORT. The bit-packing commands on a running lane, each case said once (R91 to R94). -/

namespace Sys2Proof.Machine

variable {s : State} {l : Lane} {w n : Nat}

/-- The executing lane keeps running when a lane without a fault takes its place (spec R330). -/
theorem running_putLane (h : Running s l) (l' : Lane) (hf : l'.fault = false) : Running (putLane s l') l' :=
  ⟨curLane_putLane h.1, hf⟩

/-- The test of the width (spec R91, R92). -/
theorem widthIllegal_iff : widthIllegal w = true ↔ w = 0 ∨ 64 < w := by
  simp [widthIllegal]

/-- The test of the field's end (spec R91, R92). -/
theorem pastBlockEnd_iff : pastBlockEnd l w = true ↔ 128 < l.bitpos.toNat + w := by
  simp [pastBlockEnd]

/-- `CLRBLK` clears `BLK` and `BITPOS` (spec R93). -/
theorem exec_clrblk (h : Running s l) : exec .clrblk s = .next (putLane s { l with blk := 0#128, bitpos := 0#8 }) :=
  runCommand_running h _

/-- `SETBITS` of an illegal width, past the block's end, or of a value too wide raises `BITFIELD_RANGE` (spec R91). -/
theorem exec_setbits_fault (h : Running s l)
    (hbad : w = 0 ∨ 64 < w ∨ 128 < l.bitpos.toNat + w ∨ 2 ^ w ≤ l.arg.toNat) :
    exec (.setbits w) s = .next (raiseFault s l .bitfieldRange) := by
  refine (runCommand_running h _).trans ?_
  simp only [widthIllegal_iff, pastBlockEnd_iff]
  split_ifs
  · rfl
  · rfl
  · rfl
  · omega

/-- `SETBITS` that passes its three tests writes the field and advances `BITPOS` (spec R91). -/
theorem exec_setbits_write (h : Running s l)
    (hok : ¬(w = 0 ∨ 64 < w ∨ 128 < l.bitpos.toNat + w ∨ 2 ^ w ≤ l.arg.toNat)) :
    exec (.setbits w) s = .next (putLane s (laneSetbits l w)) := by
  obtain ⟨hzero, hwide, hend, harg⟩ : w ≠ 0 ∧ ¬64 < w ∧ ¬128 < l.bitpos.toNat + w ∧ ¬l.arg.toNat ≥ 2 ^ w := by omega
  refine (runCommand_running h _).trans ?_
  simp only [widthIllegal_iff, pastBlockEnd_iff, hzero, hwide, hend, harg, or_self, if_false]

/-- `GETBITS` of an illegal width or past the block's end raises `BITFIELD_RANGE` (spec R92). -/
theorem exec_getbits_fault (h : Running s l) (hbad : w = 0 ∨ 64 < w ∨ 128 < l.bitpos.toNat + w) :
    exec (.getbits w) s = .next (raiseFault s l .bitfieldRange) := by
  refine (runCommand_running h _).trans ?_
  simp only [widthIllegal_iff, pastBlockEnd_iff]
  split_ifs
  · rfl
  · rfl
  · omega

/-- `GETBITS` that passes its two tests reads the field and advances `BITPOS` (spec R92). -/
theorem exec_getbits_read (h : Running s l) (hok : ¬(w = 0 ∨ 64 < w ∨ 128 < l.bitpos.toNat + w)) :
    exec (.getbits w) s = .next (putLane s (laneGetbits l w)) := by
  obtain ⟨hzero, hwide, hend⟩ : w ≠ 0 ∧ ¬64 < w ∧ ¬128 < l.bitpos.toNat + w := by omega
  refine (runCommand_running h _).trans ?_
  simp only [widthIllegal_iff, pastBlockEnd_iff, hzero, hwide, hend, or_self, if_false]

/-- `BITPOS` after a field that ends within the block does not wrap (spec R25, R90). -/
theorem toNat_bitpos_advance {p : BitVec 8} (h : p.toNat + w ≤ 128) :
    (BitVec.ofNat 8 (p.toNat + w)).toNat = p.toNat + w := by
  rw [BitVec.toNat_ofNat]
  omega

/-- Bit `n` of `BLK` after a `SETBITS` (spec R91). -/
theorem laneSetbits_blk_getLsbD (hn : n < 128) :
    (laneSetbits l w).blk.getLsbD n =
      if l.bitpos.toNat ≤ n ∧ n < l.bitpos.toNat + w then l.arg.getLsbD (n - l.bitpos.toNat) else l.blk.getLsbD n := by
  rw [laneSetbits_blk, setField_getLsbD _ _ _ _ _ hn]
  rfl

/-- Bit `k` of `RES` after a `GETBITS` (spec R92). -/
theorem laneGetbits_res_getLsbD {k : Nat} (hk : k < 64) :
    (laneGetbits l w).res.getLsbD k = (decide (k < w) && l.blk.getLsbD (l.bitpos.toNat + k)) := by
  rw [laneGetbits_res, BitVec.getLsbD_ofNat, getField_testBit, decide_eq_true hk, Bool.true_and]

/-- What `GETBITS` leaves in `RES` is the field, which fits (spec R92). -/
theorem laneGetbits_res_toNat (hw : w ≤ 64) : (laneGetbits l w).res.toNat = getField l.blk l.bitpos.toNat w := by
  rw [laneGetbits_res, BitVec.toNat_ofNat]
  exact Nat.mod_eq_of_lt ((getField_lt _ _ _).trans_le (Nat.pow_le_pow_right (by decide) hw))

/-- `GETBITS` at the offset of a `SETBITS` reads the value back (spec R92). -/
theorem laneGetbits_laneSetbits_res (hend : l.bitpos.toNat + w ≤ 128) (harg : l.arg.toNat < 2 ^ w) :
    (laneGetbits { laneSetbits l w with bitpos := l.bitpos } w).res = l.arg := by
  simp only [laneGetbits_res, laneSetbits_blk, getField_setField _ _ _ _ harg hend, BitVec.ofNat_toNat,
    BitVec.setWidth_eq]

/-- `SETBITS` of the value that `GETBITS` reads at the same offset leaves `BLK` as it is (spec R92). -/
theorem laneSetbits_laneGetbits_blk (hw : w ≤ 64) :
    (laneSetbits { l with arg := (laneGetbits l w).res } w).blk = l.blk := by
  simp only [laneSetbits_blk, laneGetbits_res_toNat hw, setField_getField]

/-- `CHKSIZE` of the count in `BITPOS` changes nothing (spec R94). -/
theorem exec_chksize_match (h : Running s l) (hn : l.bitpos.toNat = n) : exec (.chksize n) s = .next s := by
  refine (runCommand_running h _).trans ?_
  rw [if_neg (not_not_intro hn)]

/-- `CHKSIZE` of any other count raises `SIZE_MISMATCH` (spec R94). -/
theorem exec_chksize_mismatch (h : Running s l) (hn : l.bitpos.toNat ≠ n) :
    exec (.chksize n) s = .next (raiseFault s l .sizeMismatch) := by
  refine (runCommand_running h _).trans ?_
  rw [if_pos hn]

end Sys2Proof.Machine
end

section
/-! SUPPORT. The commands that permute the bytes of `BLK[0..7]` (R95, R96). -/

namespace Sys2Proof.Machine

/-- Two halves with the same bytes are the same (spec R7). -/
theorem half_eq_of_byteOf {x y : Half} (h : ∀ k : Fin 8, byteOf x k = byteOf y k) : x = y := by
  apply BitVec.eq_of_getLsbD_eq
  intro i hi
  have hbit := congrArg (BitVec.getLsbD · (i % 8)) (h ⟨i / 8, by omega⟩)
  have hmod : i % 8 < 8 := Nat.mod_lt _ (by decide)
  simpa only [byteOf_getLsbD, hmod, decide_true, Bool.true_and, Nat.div_add_mod] using hbit

/-- A permutation of the bytes that is its own inverse, applied twice, restores the half (spec R95, R96). -/
theorem permuteBytes_permuteBytes {perm : Nat → Nat} (hperm : ∀ k < 8, perm k < 8 ∧ perm (perm k) = k) (x : Half) :
    permuteBytes perm (permuteBytes perm x) = x := by
  refine half_eq_of_byteOf fun k => ?_
  obtain ⟨hlt, hinv⟩ := hperm k k.isLt
  calc byteOf (permuteBytes perm (permuteBytes perm x)) k
      = byteOf (permuteBytes perm x) (perm k) := byteOf_permuteBytes perm _ k
    _ = byteOf x (perm (perm k)) := byteOf_permuteBytes perm x ⟨perm k, hlt⟩
    _ = byteOf x k := by rw [hinv]

/-- Byte `k` of a block built from halves (spec R22). -/
theorem byteOf_blockOf (a b : Half) {k : Nat} (hk : k < 16) :
    byteOf (blockOf a b) k = if k < 8 then byteOf a k else byteOf b (k - 8) := by
  apply BitVec.eq_of_getLsbD_eq
  intro i hi
  rw [byteOf_getLsbD, blockOf_getLsbD _ _ _ (by omega)]
  by_cases hlow : k < 8
  · rw [if_pos hlow, if_pos (by omega), byteOf_getLsbD]
  · rw [if_neg hlow, if_neg (by omega), byteOf_getLsbD, show 8 * k + i - 64 = 8 * (k - 8) + i by omega]

/-- `BLK[0..7]` as a number is the field of the low 64 block bits (spec R7, R22). -/
theorem toNat_lowHalf (b : Block) : (lowHalf b).toNat = getField b 0 64 := by
  simp [lowHalf, getField]

/-- A block with the bytes of `BLK[0..7]` permuted, `BLK[8..15]` kept (spec R95, R96). -/
def permuteLowBytes (perm : Nat → Nat) (b : Block) : Block := blockOf (permuteBytes perm (lowHalf b)) (highHalf b)

/-- Permuting the low bytes by a permutation that is its own inverse, twice, restores the block (spec R95, R96). -/
theorem permuteLowBytes_permuteLowBytes {perm : Nat → Nat} (hperm : ∀ k < 8, perm k < 8 ∧ perm (perm k) = k)
    (b : Block) : permuteLowBytes perm (permuteLowBytes perm b) = b := by
  simp only [permuteLowBytes, lowHalf_blockOf, highHalf_blockOf, permuteBytes_permuteBytes hperm, blockOf_halves]

/-- Byte `k` of a block with its low bytes permuted (spec R95, R96). -/
theorem byteOf_permuteLowBytes {perm : Nat → Nat} (hperm : ∀ k < 8, perm k < 8) (b : Block) {k : Nat} (hk : k < 16) :
    byteOf (permuteLowBytes perm b) k = byteOf b (if k < 8 then perm k else k) := by
  have hbytes := fun j (hj : j < 16) => byteOf_blockOf (lowHalf b) (highHalf b) hj
  rw [blockOf_halves] at hbytes
  rw [permuteLowBytes, byteOf_blockOf _ _ hk]
  by_cases hlow : k < 8
  · have hlt := hperm k hlow
    rw [if_pos hlow, if_pos hlow, hbytes _ (by omega), if_pos hlt]
    exact byteOf_permuteBytes perm _ ⟨k, hlow⟩
  · rw [if_neg hlow, if_neg hlow, hbytes k hk, if_neg hlow]

/-- What a command that permutes the low bytes of `BLK` by a permutation that is its own inverse does, once and
twice (spec R95, R96). -/
theorem exec_permuteLowBytes {i : Instr} {perm : Nat → Nat} (hperm : ∀ k < 8, perm k < 8 ∧ perm (perm k) = k)
    (hexec : ∀ s l, Running s l → exec i s = .next (putLane s { l with blk := permuteLowBytes perm l.blk }))
    {s : State} {l : Lane} (h : Running s l) :
    exec i s = .next (putLane s { l with blk := permuteLowBytes perm l.blk }) ∧
      exec i (putLane s { l with blk := permuteLowBytes perm l.blk }) = .next s := by
  refine ⟨hexec s l h, ?_⟩
  rw [hexec _ _ (running_putLane h { l with blk := permuteLowBytes perm l.blk } h.2),
    permuteLowBytes_permuteLowBytes hperm, putLane_putLane, putLane_self h.1]

end Sys2Proof.Machine
end

section
/-! SUPPORT. Consecutive fields of a number joined: what the packers of the 64-bit layouts build from the fields read
(R97, R140, R142, R170, R180). -/

namespace Sys2Proof.Machine

/-- A field is below two to its width (spec R8). -/
theorem field_lt (x o w : Nat) : field x o w < 2 ^ w := Nat.mod_lt _ (Nat.two_pow_pos w)

/-- A field by its low and its high part (spec R7). -/
theorem field_add (x o a b : Nat) : field x o (a + b) = field x o a + 2 ^ a * field x (o + a) b := by
  simp only [field, Nat.pow_add, Nat.mod_mul, Nat.div_div_eq_div_mul]

/-- A number below two to the width is its whole field (spec R7). -/
theorem field_zero_of_lt {x w : Nat} (h : x < 2 ^ w) : field x 0 w = x := by
  simp [field, Nat.mod_eq_of_lt h]

/-- The low bits of a number up to a field's end: those below the field, then the field at its place (spec R8). -/
theorem field_snoc (x : Nat) {o a n : Nat} (h : o + a = n) : field x 0 n = field x 0 o + field x o a * 2 ^ o := by
  rw [← h, field_add, Nat.zero_add, Nat.mul_comm]

/-- Packing a field in front of the fields after it gives the joined field (spec R90, R147). -/
theorem packFields_cons_field (x o a b : Nat) {rest : List (Nat × Nat)} (h : packFields rest = field x (o + a) b) :
    packFields ((field x o a, a) :: rest) = field x o (a + b) := by
  rw [packFields, Nat.mod_eq_of_lt (field_lt x o a), h, field_add]

/-- Packing consecutive fields of one width gives the joined field (spec R90, R147). -/
theorem packFields_range_field (x o w n : Nat) :
    packFields ((List.range n).map fun i => (field x (o + w * i) w, w)) = field x o (w * n) := by
  induction n generalizing o with
  | zero => simp [packFields, field, Nat.mod_one]
  | succ n ih =>
    have hoff : ∀ i, o + w * (i + 1) = o + w + w * i := fun i => by ring
    rw [List.range_succ_eq_map, List.map_cons, List.map_map, Nat.mul_succ, Nat.add_comm (w * n)]
    refine packFields_cons_field x o w (w * n) ?_
    simp only [Function.comp_def, Nat.succ_eq_add_one, hoff, ih (o + w)]

/-- Consecutive fields of one width, each at its place, add up to the joined field at its place (spec R8). -/
theorem sum_range_field (x o w n : Nat) :
    ((List.range n).map fun i => field x (o + w * i) w * 2 ^ (o + w * i)).sum = field x o (w * n) * 2 ^ o := by
  induction n with
  | zero => simp [field, Nat.mod_one]
  | succ n ih =>
    rw [List.range_succ, List.map_append, List.sum_append, ih, Nat.mul_succ, field_add]
    simp only [List.map_singleton, List.sum_singleton, Nat.pow_add]
    ring

/-- The values of a field of every pixel, read at one pixel (spec R11). -/
theorem getD_map_range (f : Nat → Nat) {n i : Nat} (hi : i ∈ List.range n) :
    ((List.range n).map f).getD i 0 = f i := by
  simp [List.mem_range.mp hi]

/-- Two endpoint fields and sixteen selectors, read from a half they fill, pack to the half again (spec R140, R142). -/
theorem packFields_endpoints_selectors (h : Half) (a w : Nat) (hsum : a + (a + w * 16) = 64) :
    BitVec.ofNat 64 (packFields ([(getField h 0 a, a), (getField h a a, a)] ++ (List.range 16).map fun i =>
      (((List.range 16).map fun j => getField h (a + a + w * j) w).getD i 0, w))) = h := by
  have hsels : ((List.range 16).map fun i =>
        (((List.range 16).map fun j => getField h (a + a + w * j) w).getD i 0, w)) =
      (List.range 16).map fun i => (field h.toNat (a + a + w * i) w, w) :=
    List.map_congr_left fun i hi => by rw [getD_map_range _ hi]; rfl
  have hpack : packFields ((field h.toNat 0 a, a) :: (field h.toNat (0 + a) a, a) :: (List.range 16).map fun i =>
      (field h.toNat (0 + a + a + w * i) w, w)) = field h.toNat 0 (a + (a + w * 16)) :=
    packFields_cons_field _ _ _ _ (packFields_cons_field _ _ _ _ (packFields_range_field _ _ _ _))
  rw [Nat.zero_add, hsum, field_zero_of_lt h.isLt] at hpack
  rw [hsels]
  exact (congrArg (BitVec.ofNat 64) hpack).trans (by simp)

/-- Every BC1 block is the packing of its fields (spec R140). -/
theorem packBc1_fields (h : Half) : packBc1 (bc1C0 h) (bc1C1 h) ((List.range 16).map (bc1Sel h)) = h :=
  packFields_endpoints_selectors h 16 2 rfl

/-- Every BC4 block is the packing of its fields (spec R142). -/
theorem packBc4_fields (h : Half) : packBc4 (bc4E0 h) (bc4E1 h) ((List.range 16).map (bc4Idx h)) = h :=
  packFields_endpoints_selectors h 8 3 rfl

/-- The half of the big-endian word of a half is that half (spec R8). -/
theorem halfOfWord_wordOf (h : Half) : halfOfWord (wordOf h) = h := by
  rw [halfOfWord, wordOf, BitVec.ofNat_toNat, BitVec.setWidth_eq, byteReverse_byteReverse]

/-- The plane positions of the sixteen pixels are the sixteen positions (spec R170). -/
theorem planePos_perm : ((List.range 16).map planePos).Perm (List.range 16) := by decide

/-- The sum over the pixels of what stands at their plane positions (spec R170). -/
theorem sum_planePos (f : Nat → Nat) :
    ((List.range 16).map fun i => f (planePos i)).sum = ((List.range 16).map f).sum := by
  have h := (planePos_perm.map f).sum_eq
  rwa [List.map_map] at h

/-- The bits of a selector (spec R170). -/
theorem etcSel_bits (w i : Nat) :
    etcSel w i / 2 % 2 = field w (16 + planePos i) 1 ∧ etcSel w i % 2 = field w (planePos i) 1 := by
  have hhigh := field_lt w (16 + planePos i) 1
  have hlow := field_lt w (planePos i) 1
  unfold etcSel
  omega

/-- The selectors read from a word fill its low 32 bits again (spec R170). -/
theorem etcPlanes_etcSel (w : Nat) : etcPlanes ((List.range 16).map (etcSel w)) = field w 0 32 := by
  have hlow := sum_range_field w 0 1 16
  have hhigh := sum_range_field w 16 1 16
  have hbits : ∀ i ∈ List.range 16, ((List.range 16).map (etcSel w)).getD i 0 / 2 % 2 * 2 ^ (16 + planePos i) +
        ((List.range 16).map (etcSel w)).getD i 0 % 2 * 2 ^ planePos i =
      field w (16 + planePos i) 1 * 2 ^ (16 + planePos i) + field w (planePos i) 1 * 2 ^ planePos i := by
    intro i hi
    obtain ⟨h1, h0⟩ := etcSel_bits w i
    rw [getD_map_range _ hi, h1, h0]
  calc etcPlanes ((List.range 16).map (etcSel w))
      = ((List.range 16).map fun i => field w (16 + planePos i) 1 * 2 ^ (16 + planePos i) +
          field w (planePos i) 1 * 2 ^ planePos i).sum := congrArg List.sum (List.map_congr_left hbits)
    _ = ((List.range 16).map fun n => field w (16 + n) 1 * 2 ^ (16 + n)).sum +
          ((List.range 16).map fun n => field w n 1 * 2 ^ n).sum := by
        rw [sum_planePos fun n => field w (16 + n) 1 * 2 ^ (16 + n) + field w n 1 * 2 ^ n, List.sum_map_add]
    _ = field w 0 32 := by
        simp only [Nat.one_mul, Nat.zero_add] at hlow hhigh
        rw [hlow, hhigh, field_add w 0 16 16]
        ring

/-- The bit offsets of the sixteen EAC indices are those of sixteen consecutive 3-bit fields (spec R180). -/
theorem eacOffset_perm :
    ((List.range 16).map fun i => 45 - 3 * planePos i).Perm ((List.range 16).map fun i => 0 + 3 * i) := by decide

/-- The indices read from an EAC word fill its low 48 bits again (spec R180). -/
theorem sum_eacIdx (w : Nat) :
    ((List.range 16).map fun i => ((List.range 16).map (eacIdx w)).getD i 0 * 2 ^ (45 - 3 * planePos i)).sum =
      field w 0 48 := by
  have hperm := (eacOffset_perm.map fun o => field w o 3 * 2 ^ o).sum_eq
  rw [List.map_map, List.map_map] at hperm
  calc _ = ((List.range 16).map fun i => eacIdx w i * 2 ^ (45 - 3 * planePos i)).sum :=
        congrArg List.sum (List.map_congr_left fun i hi => by rw [getD_map_range _ hi])
    _ = ((List.range 16).map fun i => field w (0 + 3 * i) 3 * 2 ^ (0 + 3 * i)).sum := hperm
    _ = field w 0 48 := by rw [sum_range_field, Nat.pow_zero, Nat.mul_one]

/-- Every EAC word is built from its own fields (spec R180). -/
theorem eacWord_fields {w : Nat} (h : w < 2 ^ 64) :
    eacWord (field w 56 8) (field w 52 4) (field w 48 4) ((List.range 16).map (eacIdx w)) = w := by
  have hw := field_zero_of_lt h
  rw [field_snoc w (o := 56) (a := 8) rfl, field_snoc w (o := 52) (a := 4) rfl,
    field_snoc w (o := 48) (a := 4) rfl] at hw
  refine Eq.trans ?_ hw
  rw [eacWord, sum_eacIdx]
  ring

/-- A differential sum in range is a 5-bit value (spec R171). -/
theorem sumOverflows_eq_false_iff (v : Int) : sumOverflows v = false ↔ 0 ≤ v ∧ v ≤ 31 := by
  simp [sumOverflows]

/-- A differential sum in range is stored as the delta it was built from (spec R171, R173). -/
theorem delta_diffSum {w lo : Nat} (h : sumOverflows (diffSum w lo) = false) :
    ((diffSum w lo).toNat + 8 - field w (lo + 3) 5 % 8) % 8 = field w lo 3 := by
  have hlt := field_lt w lo 3
  rw [sumOverflows_eq_false_iff] at h
  unfold diffSum sext3 at *
  split_ifs at * <;> omega

/-- A word in individual mode has its mode bit 0 (spec R171). -/
theorem etcModeOf_individual {w : Nat} (h : etcModeOf w = .individual) : field w 33 1 = 0 := by
  unfold etcModeOf at h
  split_ifs at h with hbit
  exact hbit

/-- A word in differential mode has its mode bit 1 and its three sums in range (spec R171). -/
theorem etcModeOf_differential {w : Nat} (h : etcModeOf w = .differential) : field w 33 1 = 1 ∧
    sumOverflows (diffSum w 56) = false ∧ sumOverflows (diffSum w 48) = false ∧
    sumOverflows (diffSum w 40) = false := by
  have hlt := field_lt w 33 1
  unfold etcModeOf at h
  split_ifs at h with hbit hr hg hb
  exact ⟨by omega, by simpa using hr, by simpa using hg, by simpa using hb⟩

/-- The part of a word below the colour fields: tables, mode bit, flip bit and selectors (spec R172, R173). -/
theorem field_below_colours (w : Nat) : field w 0 40 = field w 37 3 * 2 ^ 37 + field w 34 3 * 2 ^ 34 +
    field w 33 1 * 2 ^ 33 + field w 32 1 * 2 ^ 32 + field w 0 32 := by
  rw [field_snoc w (o := 37) (a := 3) rfl, field_snoc w (o := 34) (a := 3) rfl, field_snoc w (o := 33) (a := 1) rfl,
    field_snoc w (o := 32) (a := 1) rfl]
  ring

/-- A word in individual mode is built from its own fields (spec R172). -/
theorem etc1Word_individual {w : Nat} (h : w < 2 ^ 64) (hmode : etcModeOf w = .individual) :
    etc1Word false [field w 60 4, field w 52 4, field w 44 4] [field w 56 4, field w 48 4, field w 40 4]
      (etcTable w 0) (etcTable w 1) (field w 32 1) ((List.range 16).map (etcSel w)) = w := by
  have hw := field_zero_of_lt h
  rw [field_snoc w (o := 60) (a := 4) rfl, field_snoc w (o := 56) (a := 4) rfl, field_snoc w (o := 52) (a := 4) rfl,
    field_snoc w (o := 48) (a := 4) rfl, field_snoc w (o := 44) (a := 4) rfl, field_snoc w (o := 40) (a := 4) rfl,
    field_below_colours, etcModeOf_individual hmode] at hw
  refine Eq.trans ?_ hw
  simp only [etc1Word, etcPlanes_etcSel, chan, etcTable, List.getD_cons_zero, List.getD_cons_succ, Bool.false_eq_true,
    one_ne_zero, if_true, if_false, Bool.toNat_false]
  ring

/-- A word in differential mode is built from its own fields, the second colour stored as its deltas (spec R173). -/
theorem etc1Word_differential {w : Nat} (h : w < 2 ^ 64) (hmode : etcModeOf w = .differential) :
    etc1Word true [field w 59 5, field w 51 5, field w 43 5]
      [(diffSum w 56).toNat, (diffSum w 48).toNat, (diffSum w 40).toNat]
      (etcTable w 0) (etcTable w 1) (field w 32 1) ((List.range 16).map (etcSel w)) = w := by
  obtain ⟨hbit, hr, hg, hb⟩ := etcModeOf_differential hmode
  have hw := field_zero_of_lt h
  rw [field_snoc w (o := 59) (a := 5) rfl, field_snoc w (o := 56) (a := 3) rfl, field_snoc w (o := 51) (a := 5) rfl,
    field_snoc w (o := 48) (a := 3) rfl, field_snoc w (o := 43) (a := 5) rfl, field_snoc w (o := 40) (a := 3) rfl,
    field_below_colours, hbit] at hw
  have hdr := delta_diffSum hr
  have hdg := delta_diffSum hg
  have hdb := delta_diffSum hb
  refine Eq.trans ?_ hw
  simp only [etc1Word, etcPlanes_etcSel, chan, etcTable, List.getD_cons_zero, List.getD_cons_succ, one_ne_zero, if_true,
    if_false, Bool.toNat_true, hdr, hdg, hdb]
  ring

end Sys2Proof.Machine
end

section
/-! SUPPORT. The field widths of a BC7 block (R147, R149). -/

namespace Sys2Proof.Machine

/-- Every partition has one anchor pixel per subset (spec R117, R149). -/
theorem countP_isAnchor : ∀ ns ∈ [1, 2, 3], ∀ part < 64, (List.range 16).countP (isAnchor ns part) = ns := by
  decide +kernel

/-- Widths `b` of which those where `p` holds are one short: each of these takes one from the sum (spec R149). -/
theorem sum_map_short {α : Type} (p : α → Bool) {b : Nat} (hb : 0 < b) (xs : List α) :
    (xs.map fun x => if p x then b - 1 else b).sum + xs.countP p = xs.length * b := by
  induction xs with
  | nil => simp
  | cons x xs ih =>
    rw [List.map_cons, List.sum_cons, List.countP_cons, List.length_cons, Nat.succ_mul]
    split_ifs <;> omega

/-- The widths of the primary selectors: one short for the anchor of each subset (spec R147, R149). -/
theorem sum_primarySelWidths {m : Bc7ModeRow} {part : Nat} (hib : 0 < m.ib) (hns : m.ns ∈ [1, 2, 3])
    (hpart : part < 64) :
    ((List.range 16).map fun i => if isAnchor m.ns part i then m.ib - 1 else m.ib).sum + m.ns = 16 * m.ib := by
  have hsum := sum_map_short (isAnchor m.ns part) hib (List.range 16)
  rwa [countP_isAnchor m.ns hns part hpart, List.length_range] at hsum

/-- The modes have primary selectors and one to three subsets (spec R114). -/
theorem bc7Mode_ib_ns : ∀ mode < 8, 0 < (bc7Mode mode).ib ∧ (bc7Mode mode).ns ∈ [1, 2, 3] := by decide

/-- All other fields of a mode leave room for sixteen full primary selectors but for a bit per subset (spec R97). -/
theorem sum_otherWidths : ∀ mode < 8, (bc7HeadWidths mode).sum + 16 * (bc7Mode mode).ib +
    ((List.range 16).map fun i => if i = 0 then (bc7Mode mode).ib2 - 1 else (bc7Mode mode).ib2).sum =
      128 + (bc7Mode mode).ns := by
  decide

/-- The field widths of a BC7 block sum to 128 in every mode and for every partition (spec R97). -/
theorem sum_bc7Widths {mode part : Nat} (hmode : mode < 8) (hpart : part < 64) : (bc7Widths mode part).sum = 128 := by
  obtain ⟨hib, hns⟩ := bc7Mode_ib_ns mode hmode
  have hprimary := sum_primarySelWidths hib hns hpart
  have hother := sum_otherWidths mode hmode
  rw [bc7Widths, bc7SelWidths, List.sum_append, List.sum_append]
  omega

end Sys2Proof.Machine
end

section
/-! The obligations of the bit-packing family (40_bitpack.md). -/

namespace Sys2Proof.Machine

/-- Settles O20: the three tests of `SETBITS`, then the field written bit by bit. -/
theorem setbitsEffect : Obligations.SetbitsEffect := by
  unfold Obligations.SetbitsEffect
  refine ⟨fun w hw => decodeOfEncode (.setbits w) (decide_eq_true hw), fun s l w h => ⟨exec_setbits_fault h, ?_⟩⟩
  intro hok
  exact ⟨_, _, exec_setbits_write h hok, toNat_bitpos_advance (by omega), fun n hn => laneSetbits_blk_getLsbD hn⟩

/-- Settles O21: the two tests of `GETBITS`, the field read bit by bit, and the two halves of the read-back law. -/
theorem getbitsEffectAndLaw : Obligations.GetbitsEffectAndLaw := by
  unfold Obligations.GetbitsEffectAndLaw
  refine ⟨fun w hw => decodeOfEncode (.getbits w) (decide_eq_true hw), fun s l w h => ⟨exec_getbits_fault h, ?_⟩⟩
  intro hok
  refine ⟨_, _, exec_getbits_read h hok, toNat_bitpos_advance (by omega), fun k hk => laneGetbits_res_getLsbD hk,
    fun harg => ?_, ?_⟩
  · have hset := running_putLane h (laneSetbits l w) h.2
    have hget := running_putLane hset { laneSetbits l w with bitpos := l.bitpos } h.2
    exact ⟨_, _, _, _, exec_setbits_write h (by omega), hset.1, exec_getbits_read hget hok,
      curLane_putLane hget.1, laneGetbits_laneSetbits_res (by omega) harg⟩
  · have hread : (laneGetbits l w).res.toNat < 2 ^ w := by
      rw [laneGetbits_res_toNat (by omega)]
      exact getField_lt _ _ _
    have harg := running_putLane h { l with arg := (laneGetbits l w).res } h.2
    exact ⟨_, _, exec_setbits_write harg (by dsimp only; omega), curLane_putLane harg.1,
      laneSetbits_laneGetbits_blk (by omega)⟩

/-- Settles O32: the anchors' short selectors complete the 128 bits, and the packers join the fields read. -/
theorem fieldsFillEveryBlock : Obligations.FieldsFillEveryBlock := by
  unfold Obligations.FieldsFillEveryBlock
  refine ⟨fun mode hmode part hpart _ => sum_bc7Widths hmode hpart, fun h => ?_⟩
  have hlt : wordOf h < 2 ^ 64 := (byteReverse h).isLt
  refine ⟨packBc1_fields h, packBc4_fields h, ?_, fun hmode => ?_, fun hmode => ?_⟩
  · rw [eacWord_fields hlt, halfOfWord_wordOf]
  · rw [etc1Word_individual hlt hmode, halfOfWord_wordOf]
  · rw [etc1Word_differential hlt hmode, halfOfWord_wordOf]

/-- Settles O19: `CLRBLK` is one write of its lane. -/
theorem clrblkEffect : Obligations.ClrblkEffect := by
  unfold Obligations.ClrblkEffect
  exact ⟨decodeOfEncode .clrblk rfl, fun _ _ h => exec_clrblk h⟩

/-- Settles O22: `CHKSIZE` passes or faults by the count in `BITPOS`, which is 0 after `CLRBLK` and never above 128. -/
theorem chksizeEffect : Obligations.ChksizeEffect := by
  unfold Obligations.ChksizeEffect
  refine ⟨fun n hn => decodeOfEncode (.chksize n) (decide_eq_true hn), fun s l h => ⟨fun n => ?_, ?_, fun hfull => ?_⟩⟩
  · refine ⟨exec_chksize_match h, exec_chksize_mismatch h, fun hinv hn => exec_chksize_mismatch h ?_⟩
    obtain ⟨hbitpos, -⟩ := hinv
    omega
  · exact ⟨_, exec_clrblk h, exec_chksize_match (running_putLane h _ h.2) rfl⟩
  · have hcount : l.bitpos.toNat = 128 := by simp [hfull]
    exact ⟨exec_chksize_match h hcount, exec_chksize_mismatch h (by omega)⟩

/-- Settles O23: the order of the bytes of `FIXBO.ETC` is its own inverse. -/
theorem fixboEtcEffect : Obligations.FixboEtcEffect := by
  unfold Obligations.FixboEtcEffect
  refine ⟨decodeOfEncode .fixboEtc rfl, fun s l h => ⟨permuteLowBytes (fun k => if k < 4 then k else 11 - k) l.blk, ?_⟩⟩
  obtain ⟨honce, htwice⟩ :=
    exec_permuteLowBytes (i := .fixboEtc) (by decide) (fun _ _ hrun => runCommand_running hrun _) h
  refine ⟨honce, fun k hk => ?_, htwice⟩
  rw [byteOf_permuteLowBytes (by decide) _ hk]
  congr 1
  split_ifs <;> omega

/-- Settles O24: the reversal of the bytes is its own inverse, and the big-endian word reads them reversed. -/
theorem bswap64Effect : Obligations.Bswap64Effect := by
  unfold Obligations.Bswap64Effect
  refine ⟨decodeOfEncode .bswap64 rfl, fun s l h => ⟨permuteLowBytes (fun k => 7 - k) l.blk, ?_⟩⟩
  obtain ⟨honce, htwice⟩ :=
    exec_permuteLowBytes (i := .bswap64) (by decide) (fun _ _ hrun => runCommand_running hrun _) h
  refine ⟨honce, fun k hk => byteOf_permuteLowBytes (by omega) _ hk, ?_, htwice⟩
  rw [permuteLowBytes, lowHalf_blockOf, ← toNat_lowHalf]
  exact congrArg BitVec.toNat (byteReverse_byteReverse _)

end Sys2Proof.Machine
end

section
/-! SUPPORT. The two computed BC7 tables: `pairsBelow` lists its pairs in their lexicographic order, so the first
minimum the search of R10 answers is the one R121 and R122 name. -/

namespace Sys2Proof.Machine

/-- Every element of an ordered list that ties with the first minimum is the minimum itself or comes after it
(spec R10). -/
theorem leastBy_eq_or_rel {α : Type} {r : α → α → Prop} (f : α → Nat) (d : α) {xs : List α} (hr : xs.Pairwise r)
    {x : α} (hx : x ∈ xs) (htie : f x = f (leastBy f d xs)) : x = leastBy f d xs ∨ r (leastBy f d xs) x := by
  obtain ⟨pre, post, heq, hpre⟩ := leastBy_first f d (List.ne_nil_of_mem hx)
  rw [heq] at hx hr
  rcases List.mem_append.mp hx with hx | hx
  · exact absurd htie (hpre x hx).ne'
  · rcases List.mem_cons.mp hx with hx | hx
    · exact .inl hx
    · exact .inr (List.rel_of_pairwise_cons (List.pairwise_append.mp hr).2.1 hx)

/-- The pairs below `n` are those with both parts below `n` (spec R121, R122). -/
@[simp] theorem mem_pairsBelow {n lo hi : Nat} : (lo, hi) ∈ pairsBelow n ↔ lo < n ∧ hi < n := by
  simp [pairsBelow]

/-- The pairs below `n` stand in their lexicographic order: `lo` outer, `hi` inner (spec R121, R122). -/
theorem pairsBelow_pairwise (n : Nat) : (pairsBelow n).Pairwise (Prod.Lex (· < ·) (· < ·)) := by
  refine List.pairwise_flatMap.mpr ⟨fun lo _ => ?_, List.pairwise_lt_range.imp fun {lo lo'} hlt => ?_⟩
  · exact List.pairwise_map.mpr (List.pairwise_lt_range.imp fun hlt => .right lo hlt)
  · intro x hx y hy
    obtain ⟨hi, -, rfl⟩ := List.mem_map.mp hx
    obtain ⟨hi', -, rfl⟩ := List.mem_map.mp hy
    exact .left hi hi' hlt

/-- What R121 and R122 ask of an entry: among the pairs of fields below `n` it holds the first, `lo` outer and `hi`
inner, at which `err` is least, and that error. -/
def IsLeastEntry (n : Nat) (err : Nat → Nat → Nat) (e : OptEntry) : Prop :=
  e.lo < n ∧ e.hi < n ∧ e.err = err e.lo e.hi ∧
    ∀ lo < n, ∀ hi < n, e.err ≤ err lo hi ∧ (err lo hi = e.err → e.lo < lo ∨ (e.lo = lo ∧ e.hi ≤ hi))

/-- The first minimum over the pairs below `n` is the least entry (spec R10, R121, R122). -/
theorem leastBy_pairsBelow_isLeastEntry {n : Nat} (hn : 0 < n) (err : Nat × Nat → Nat) :
    IsLeastEntry n (fun lo hi => err (lo, hi)) ⟨err (leastBy err (0, 0) (pairsBelow n)),
      (leastBy err (0, 0) (pairsBelow n)).1, (leastBy err (0, 0) (pairsBelow n)).2⟩ := by
  have hne : pairsBelow n ≠ [] := List.ne_nil_of_mem (mem_pairsBelow.mpr ⟨hn, hn⟩)
  obtain ⟨hlo, hhi⟩ := mem_pairsBelow.mp (leastBy_mem err (0, 0) hne)
  refine ⟨hlo, hhi, rfl, fun lo hlo' hi hhi' => ?_⟩
  have hmem : (lo, hi) ∈ pairsBelow n := mem_pairsBelow.mpr ⟨hlo', hhi'⟩
  refine ⟨leastBy_le err (0, 0) hmem, fun htie => ?_⟩
  rcases leastBy_eq_or_rel err (0, 0) (pairsBelow_pairwise n) hmem htie with heq | hlex
  · exact .inr ⟨congrArg Prod.fst heq.symm, (congrArg Prod.snd heq.symm).le⟩
  · exact (Prod.lex_def.mp hlex).imp_right fun ⟨hfst, hsnd⟩ => ⟨hfst, hsnd.le⟩

/-- The search over all pairs of endpoint fields answers the least entry (spec R121, R122). -/
theorem optEntry_isLeastEntry (n w lop hip c : Nat) :
    IsLeastEntry (2 ^ (n - 1)) (fun lo hi => sqDiff (optValue n w lop hip lo hi) c) (optEntry n w lop hip c) :=
  leastBy_pairsBelow_isLeastEntry (Nat.two_pow_pos _) fun pair => sqDiff (optValue n w lop hip pair.1 pair.2) c

/-- A computed table read at an index (spec R31). -/
theorem getD_toList_ofFn {n : Nat} (f : Fin n → OptEntry) (d : OptEntry) {k : Nat} (hk : k < n) :
    (Vector.ofFn f).toList.getD k d = f ⟨k, hk⟩ := by
  simp [hk]

/-- The whole of `OPT1` as computed (spec R31, R121). -/
theorem opt1Table_eq : opt1Table = Vector.ofFn fun k => opt1Entry (k.val / 2) (k.val % 2) := by
  unfold opt1Table
  rfl

/-- The whole of `OPT7` as computed (spec R31, R122). -/
theorem opt7Table_eq : opt7Table = Vector.ofFn fun k => opt7Entry (k.val / 4) (k.val / 2 % 2) (k.val % 2) := by
  unfold opt7Table
  rfl

/-- The entry of `OPT1` after `INIT.BC7` at a channel value and a p-bit (spec R31, R121). -/
theorem opt1At_opt1Table {c p : Nat} (hc : c < 256) (hp : p < 2) : opt1At opt1Table c p = opt1Entry c p := by
  have hdiv : (2 * c + p) / 2 = c := by omega
  have hmod : (2 * c + p) % 2 = p := by omega
  rw [opt1At, opt1Table_eq, getD_toList_ofFn _ _ (by omega), hdiv, hmod]

/-- The entry of `OPT7` after `INIT.BC7` at a channel value and two p-bits (spec R31, R122). -/
theorem opt7At_opt7Table {c hp lp : Nat} (hc : c < 256) (hhp : hp < 2) (hlp : lp < 2) :
    opt7At opt7Table c hp lp = opt7Entry c hp lp := by
  have hdiv : (4 * c + 2 * hp + lp) / 4 = c := by omega
  have hhigh : (4 * c + 2 * hp + lp) / 2 % 2 = hp := by omega
  have hlow : (4 * c + 2 * hp + lp) % 2 = lp := by omega
  rw [opt7At, opt7Table_eq, getD_toList_ofFn _ _ (by omega), hdiv, hhigh, hlow]

end Sys2Proof.Machine
end

section
/-! SUPPORT. The partition tables row by row (R115 to R117): a row is a number of sixteen digits, so rows that differ
as numbers differ at a pixel. -/

namespace Sys2Proof.Machine

/-- Numbers of `n` fields of one width that agree field by field are equal (spec R8). -/
theorem eq_of_fields_eq {x y w n : Nat} (hx : x < 2 ^ (w * n)) (hy : y < 2 ^ (w * n))
    (h : ∀ i < n, field x (w * i) w = field y (w * i) w) : x = y := by
  have hfields : ((List.range n).map fun i => (field x (0 + w * i) w, w)) =
      (List.range n).map fun i => (field y (0 + w * i) w, w) :=
    List.map_congr_left fun i hi => by rw [Nat.zero_add, h i (List.mem_range.mp hi)]
  calc x = field x 0 (w * n) := (field_zero_of_lt hx).symm
    _ = field y 0 (w * n) := by rw [← packFields_range_field, hfields, packFields_range_field]
    _ = y := field_zero_of_lt hy

/-- Two rows of a list of different numbers of `n` fields differ in a field (spec R118). -/
theorem exists_field_getD_ne {rows : List Nat} {w n : Nat} (hnodup : rows.Nodup) (hfit : ∀ r ∈ rows, r < 2 ^ (w * n))
    {a b : Nat} (ha : a < rows.length) (hb : b < rows.length) (hab : a ≠ b) :
    ∃ i < n, field (rows.getD a 0) (w * i) w ≠ field (rows.getD b 0) (w * i) w := by
  rw [List.getD_eq_getElem _ _ ha, List.getD_eq_getElem _ _ hb]
  by_contra! hall
  have heq := eq_of_fields_eq (hfit _ (List.getElem_mem ha)) (hfit _ (List.getElem_mem hb)) hall
  exact hab (hnodup.getElem_inj_iff.mp heq)

/-- A pixel's subset is a bit of the mask (spec R115). -/
theorem part2_eq_field (part i : Nat) : part2 part i = field (part2Masks.getD part 0) (1 * i) 1 := by
  rw [part2, field, Nat.one_mul, Nat.pow_one]

/-- A pixel's subset is a hexadecimal digit of the row, pixel 0 the highest (spec R116). -/
theorem part3_eq_field (part i : Nat) : part3 part i = field (part3Digits.getD part 0) (4 * (15 - i)) 4 := by
  rw [part3, field, Nat.pow_mul, show 2 ^ 4 = 16 from rfl]

/-- Different two-subset partitions differ at a pixel (spec R118). -/
theorem exists_part2_ne {a b : Nat} (ha : a < 64) (hb : b < 64) (hab : a ≠ b) : ∃ i < 16, part2 a i ≠ part2 b i := by
  simp only [part2_eq_field]
  exact exists_field_getD_ne (by decide) (by decide) ha hb hab

/-- Different three-subset partitions differ at a pixel (spec R118). -/
theorem exists_part3_ne {a b : Nat} (ha : a < 64) (hb : b < 64) (hab : a ≠ b) : ∃ i < 16, part3 a i ≠ part3 b i := by
  obtain ⟨k, hk, hne⟩ := exists_field_getD_ne (rows := part3Digits) (w := 4) (n := 16) (by decide) (by decide) ha hb hab
  refine ⟨15 - k, by omega, ?_⟩
  rwa [part3_eq_field, part3_eq_field, Nat.sub_sub_self (by omega)]

/-- Pixel 0 is in subset 0 (spec R118). -/
theorem part_pixel_zero : ∀ part < 64, part2 part 0 = 0 ∧ part3 part 0 = 0 := by decide

/-- Every anchor lies in its own subset (spec R117, R118). -/
theorem part_anchor : ∀ part < 64,
    part2 part (anchor 2 part 1) = 1 ∧ part3 part (anchor 3 part 1) = 1 ∧ part3 part (anchor 3 part 2) = 2 := by
  decide +kernel

/-- The anchors are pixels of the tile (spec R117). -/
theorem anchor_lt : ∀ part < 64, anchor 2 part 1 < 16 ∧ anchor 3 part 1 < 16 ∧ anchor 3 part 2 < 16 := by decide

/-- A two-subset partition has subsets 0 and 1 only (spec R115). -/
theorem part2_lt (part i : Nat) : part2 part i < 2 := Nat.mod_lt _ (by decide)

/-- A three-subset partition has subsets 0, 1 and 2 only (spec R116). -/
theorem part3_lt : ∀ part < 64, ∀ i < 16, part3 part i < 3 := by decide +kernel

/-- Each subset of a two-subset partition holds its anchor (spec R117, R118). -/
theorem exists_part2_eq {part v : Nat} (hpart : part < 64) (hv : v < 2) : ∃ i < 16, part2 part i = v := by
  obtain ⟨h1, -, -⟩ := part_anchor part hpart
  obtain ⟨hlt, -, -⟩ := anchor_lt part hpart
  interval_cases v
  · exact ⟨0, by decide, (part_pixel_zero part hpart).1⟩
  · exact ⟨_, hlt, h1⟩

/-- Each subset of a three-subset partition holds its anchor (spec R117, R118). -/
theorem exists_part3_eq {part v : Nat} (hpart : part < 64) (hv : v < 3) : ∃ i < 16, part3 part i = v := by
  obtain ⟨-, h1, h2⟩ := part_anchor part hpart
  obtain ⟨-, hlt1, hlt2⟩ := anchor_lt part hpart
  interval_cases v
  · exact ⟨0, by decide, (part_pixel_zero part hpart).2⟩
  · exact ⟨_, hlt1, h1⟩
  · exact ⟨_, hlt2, h2⟩

/-- The weight lists are complete and symmetric about 32 (spec R113). -/
theorem weight_symm : ∀ n ∈ [2, 3, 4],
    (weights n).length = 2 ^ n ∧ ∀ j < 2 ^ n, weight n (2 ^ n - 1 - j) = 64 - weight n j := by
  decide

end Sys2Proof.Machine
end

section
/-! The obligations of the table family (41_tables.md). -/

namespace Sys2Proof.Machine

/-- Settles O26: each entry is the exhaustive search's answer, at weight 18 of `W3` and 21 of `W2`. -/
theorem singleColourTablesAreLeast : Obligations.SingleColourTablesAreLeast := by
  unfold Obligations.SingleColourTablesAreLeast
  refine ⟨fun c hc p hp => ?_, fun c hc hp hhp lp hlp => ?_⟩
  · rw [opt1At_opt1Table hc hp]
    exact optEntry_isLeastEntry 7 (weight 3 2) p p c
  · rw [opt7At_opt7Table hc hhp hlp]
    exact optEntry_isLeastEntry 6 (weight 2 1) lp hp c

/-- Settles O33: the rows are evaluated for the anchors, and each subset then holds its anchor; the rows differ at a
pixel because they differ as numbers. -/
theorem partitionTablesAreConsistent : Obligations.PartitionTablesAreConsistent := by
  unfold Obligations.PartitionTablesAreConsistent
  refine ⟨part_pixel_zero, part_anchor, fun π hπ => ?_, fun π hπ ρ hρ hne => ?_, weight_symm⟩
  · exact ⟨fun _ hv => exists_part2_eq hπ hv, fun _ hv => exists_part3_eq hπ hv,
      fun i hi => ⟨part2_lt π i, part3_lt π hπ i hi⟩⟩
  · exact ⟨exists_part2_ne hπ hρ hne, exists_part3_ne hπ hρ hne⟩

end Sys2Proof.Machine
end

section
/-! SUPPORT. Where the fields of a BC7 block stand (R147, R149): a field starts at the sum of the widths before it, so
every field of `bc7Fields` is read at an offset that `BC7MODE` (R114) gives. -/

namespace Sys2Proof.Machine

/-- A field of no bits is 0 wherever it is said to stand. -/
@[simp] theorem field_width_zero (x o : Nat) : field x o 0 = 0 := Nat.mod_one _

/-- Field `k` of consecutive fields starts at the sum of the widths before it (spec R147). -/
theorem getD_splitFields (ws : List Nat) (x k : Nat) :
    (splitFields ws x).getD k 0 = field x (ws.take k).sum (ws.getD k 0) := by
  induction ws generalizing x k with
  | nil => simp [splitFields]
  | cons w ws ih =>
    cases k with
    | zero => simp [splitFields, field]
    | succ k =>
      simp only [splitFields, List.getD_cons_succ, List.take_succ_cons, List.sum_cons, ih, field, Nat.pow_add,
        Nat.div_div_eq_div_mul]

/-- Field `k` of a group of fields with the fields `ws` before the group (spec R147). -/
theorem getD_splitFields_group {all ws group : List Nat} (hall : ws ++ group <+: all) {n k : Nat}
    (hn : ws.length = n) (hk : k < group.length) (x : Nat) :
    (splitFields all x).getD (n + k) 0 = field x (ws.sum + (group.take k).sum) (group.getD k 0) := by
  obtain ⟨rest, rfl⟩ := hall
  subst hn
  rw [getD_splitFields, List.append_assoc, List.take_length_add_append, List.sum_append,
    List.take_append_of_le_length hk.le, List.getD_append_right _ _ _ _ (Nat.le_add_right _ _), Nat.add_sub_cancel_left,
    List.getD_append _ _ _ _ hk]

/-- Field `k` of a group of `count` fields of one width (spec R147). -/
theorem getD_splitFields_replicate {all ws : List Nat} {count w : Nat} (hall : ws ++ List.replicate count w <+: all)
    {n k : Nat} (hn : ws.length = n) (hk : k < count) (x : Nat) :
    (splitFields all x).getD (n + k) 0 = field x (ws.sum + k * w) w := by
  rw [getD_splitFields_group hall hn (by rwa [List.length_replicate]), List.take_replicate, Nat.min_eq_left hk.le,
    List.sum_replicate, smul_eq_mul, List.getD_replicate _ hk]

/-- The widths of sixteen selectors of `w` bits, those where `p` holds one bit short (spec R149). -/
def shortWidths (p : Nat → Bool) (w : Nat) : List Nat := (List.range 16).map fun i => if p i then w - 1 else w

/-- The widths before selector `i`: the short ones before it are counted (spec R149). -/
theorem sum_take_shortWidths (p : Nat → Bool) {w i : Nat} (hw : 0 < w) (hi : i < 16) :
    ((shortWidths p w).take i).sum + ((List.range i).filter p).length = i * w := by
  have hsum := sum_map_short p hw (List.range i)
  rw [List.length_range, List.countP_eq_length_filter] at hsum
  rwa [shortWidths, ← List.map_take, List.take_range, Nat.min_eq_left hi.le]

/-- Selector `i` of a group of sixteen starts behind the full selectors before it, but for a bit per short one (spec
R147, R149). -/
theorem getD_splitFields_short {all ws : List Nat} {p : Nat → Bool} {w : Nat} (hall : ws ++ shortWidths p w <+: all)
    {n i : Nat} (hn : ws.length = n) (hi : i < 16) (x : Nat) :
    (splitFields all x).getD (n + i) 0 =
      field x (ws.sum + i * w - ((List.range i).filter p).length) (if p i then w - 1 else w) := by
  have hwidth : (shortWidths p w).getD i 0 = if p i then w - 1 else w := getD_map_range _ (List.mem_range.mpr hi)
  rw [getD_splitFields_group hall hn (by simpa [shortWidths] using hi), hwidth]
  rcases Nat.eq_zero_or_pos w with hw | hw
  · simp [hw]
  · have hsum := sum_take_shortWidths p hw hi
    congr 1
    omega

/-- The one pixel 0, counted before pixel `i` (spec R149). -/
theorem length_filter_range_zero (i : Nat) : ((List.range i).filter (· == 0)).length = if i = 0 then 0 else 1 := by
  cases i <;> simp [List.range_succ_eq_map]

/-- Entry `j` of a cut of a list (spec R147). -/
theorem getD_take_drop (xs : List Nat) (start : Nat) {n j : Nat} (hj : j < n) :
    ((xs.drop start).take n).getD j 0 = xs.getD (start + j) 0 := by
  simp [List.getD_eq_getElem?_getD, hj]

/-- The widths of the four fields every mode opens with: mode, partition, rotation, index selection (spec R147). -/
def bc7LeadWidths (mode : Nat) : List Nat :=
  [mode + 1, (bc7Mode mode).pb, (bc7Mode mode).rb, (bc7Mode mode).isb]

/-- The widths of the endpoint colours (spec R147). -/
def bc7ColourWidths (mode : Nat) : List Nat := List.replicate (6 * (bc7Mode mode).ns) (bc7Mode mode).cb

/-- The widths of the endpoint alphas (spec R147). -/
def bc7AlphaWidths (mode : Nat) : List Nat := List.replicate (2 * (bc7Mode mode).ns) (bc7Mode mode).ab

/-- The widths before the selectors, by their groups (spec R147). -/
theorem bc7HeadWidths_eq (mode : Nat) : bc7HeadWidths mode = bc7LeadWidths mode ++ bc7ColourWidths mode ++
    bc7AlphaWidths mode ++ List.replicate (pbitCount (bc7Mode mode)) 1 := rfl

/-- The selector widths by their groups: the secondary selectors are those of one subset, with anchor 0 (spec R147,
R149). -/
theorem bc7Widths_eq (mode part : Nat) : bc7Widths mode part = bc7HeadWidths mode ++
    shortWidths (isAnchor (bc7Mode mode).ns part) (bc7Mode mode).ib ++ shortWidths (· == 0) (bc7Mode mode).ib2 := by
  simp only [bc7Widths, bc7SelWidths, shortWidths, List.append_assoc, beq_iff_eq]

/-- The widths of the secondary selectors stand behind those of the primary (spec R147). -/
theorem bc7Sel2Widths_prefix (mode part : Nat) :
    bc7HeadWidths mode ++ shortWidths (isAnchor (bc7Mode mode).ns part) (bc7Mode mode).ib ++
      shortWidths (· == 0) (bc7Mode mode).ib2 <+: bc7Widths mode part :=
  bc7Widths_eq mode part ▸ List.prefix_rfl

/-- The widths of the primary selectors stand behind those of the head (spec R147). -/
theorem bc7Sel1Widths_prefix (mode part : Nat) :
    bc7HeadWidths mode ++ shortWidths (isAnchor (bc7Mode mode).ns part) (bc7Mode mode).ib <+: bc7Widths mode part :=
  (List.prefix_append _ _).trans (bc7Sel2Widths_prefix mode part)

/-- The p-bit widths stand behind the alpha widths (spec R147). -/
theorem bc7PbitWidths_prefix (mode part : Nat) : bc7LeadWidths mode ++ bc7ColourWidths mode ++ bc7AlphaWidths mode ++
    List.replicate (pbitCount (bc7Mode mode)) 1 <+: bc7Widths mode part :=
  bc7HeadWidths_eq mode ▸ List.prefix_append _ _

/-- The alpha widths stand behind the colour widths (spec R147). -/
theorem bc7AlphaWidths_prefix (mode part : Nat) :
    bc7LeadWidths mode ++ bc7ColourWidths mode ++ bc7AlphaWidths mode <+: bc7Widths mode part :=
  (List.prefix_append _ _).trans (bc7PbitWidths_prefix mode part)

/-- The colour widths stand behind the first four (spec R147). -/
theorem bc7ColourWidths_prefix (mode part : Nat) :
    bc7LeadWidths mode ++ bc7ColourWidths mode <+: bc7Widths mode part :=
  (List.prefix_append _ _).trans (bc7AlphaWidths_prefix mode part)

/-- The first bit of the fields of channel `ch` of the endpoints, 0 to 3 for R, G, B, A (spec R147). -/
def bc7ChanAt (mode ch : Nat) : Nat :=
  let m := bc7Mode mode
  mode + 1 + m.pb + m.rb + m.isb + ch * (2 * m.ns) * m.cb

/-- The first p-bit (spec R147). -/
def bc7PbitAt (mode : Nat) : Nat := bc7ChanAt mode 3 + 2 * (bc7Mode mode).ns * (bc7Mode mode).ab

/-- The first bit of the primary selectors (spec R147). -/
def bc7Sel1At (mode : Nat) : Nat := bc7PbitAt mode + pbitCount (bc7Mode mode)

/-- The first bit of the secondary selectors: the primary ones are one bit short once a subset (spec R147, R149). -/
def bc7Sel2At (mode : Nat) : Nat := bc7Sel1At mode + 16 * (bc7Mode mode).ib - (bc7Mode mode).ns

/-- The endpoint colours start where the first four fields end (spec R147). -/
theorem sum_widths_before_colours (mode : Nat) : (bc7LeadWidths mode).sum = bc7ChanAt mode 0 := by
  simp only [bc7LeadWidths, bc7ChanAt, List.sum_cons, List.sum_nil]
  ring

/-- The endpoint alphas start where the colours end (spec R147). -/
theorem sum_widths_before_alphas (mode : Nat) :
    (bc7LeadWidths mode ++ bc7ColourWidths mode).sum = bc7ChanAt mode 3 := by
  rw [List.sum_append, sum_widths_before_colours, bc7ColourWidths, List.sum_replicate, smul_eq_mul, bc7ChanAt,
    bc7ChanAt]
  ring

/-- The p-bits start where the alphas end (spec R147). -/
theorem sum_widths_before_pbits (mode : Nat) :
    (bc7LeadWidths mode ++ bc7ColourWidths mode ++ bc7AlphaWidths mode).sum = bc7PbitAt mode := by
  rw [List.sum_append, sum_widths_before_alphas, bc7AlphaWidths, List.sum_replicate, smul_eq_mul, bc7PbitAt]

/-- The selectors start where the p-bits end (spec R147). -/
theorem sum_bc7HeadWidths (mode : Nat) : (bc7HeadWidths mode).sum = bc7Sel1At mode := by
  rw [bc7HeadWidths_eq, List.sum_append, sum_widths_before_pbits, List.sum_replicate, smul_eq_mul, Nat.mul_one,
    bc7Sel1At]

/-- The number of fields before the colours (spec R147). -/
theorem length_widths_before_colours (mode : Nat) : (bc7LeadWidths mode).length = 4 := rfl

/-- The number of fields before the alphas (spec R147). -/
theorem length_widths_before_alphas (mode : Nat) :
    (bc7LeadWidths mode ++ bc7ColourWidths mode).length = 4 + 6 * (bc7Mode mode).ns := by
  rw [List.length_append, bc7ColourWidths, List.length_replicate]
  rfl

/-- The number of fields before the p-bits (spec R147). -/
theorem length_widths_before_pbits (mode : Nat) :
    (bc7LeadWidths mode ++ bc7ColourWidths mode ++ bc7AlphaWidths mode).length = 4 + 8 * (bc7Mode mode).ns := by
  rw [List.length_append, length_widths_before_alphas, bc7AlphaWidths, List.length_replicate]
  ring

/-- The number of fields before the selectors (spec R147). -/
theorem length_bc7HeadWidths (mode : Nat) :
    (bc7HeadWidths mode).length = 4 + 8 * (bc7Mode mode).ns + pbitCount (bc7Mode mode) := by
  rw [bc7HeadWidths_eq, List.length_append, length_widths_before_pbits, List.length_replicate]

/-- The secondary selectors start where the primary ones end (spec R147, R149). -/
theorem sum_widths_before_sel2 {mode part : Nat} (hmode : mode < 8) (hpart : part < 64) :
    (bc7HeadWidths mode ++ shortWidths (isAnchor (bc7Mode mode).ns part) (bc7Mode mode).ib).sum =
      bc7Sel2At mode := by
  obtain ⟨hib, hns⟩ := bc7Mode_ib_ns mode hmode
  have hprimary : (shortWidths _ _).sum + _ = _ := sum_primarySelWidths hib hns hpart
  rw [List.sum_append, sum_bc7HeadWidths, bc7Sel2At]
  omega

/-- The number of fields before the secondary selectors (spec R147). -/
theorem length_widths_before_sel2 (mode part : Nat) :
    (bc7HeadWidths mode ++ shortWidths (isAnchor (bc7Mode mode).ns part) (bc7Mode mode).ib).length =
      4 + 8 * (bc7Mode mode).ns + pbitCount (bc7Mode mode) + 16 := by
  rw [List.length_append, length_bc7HeadWidths, shortWidths, List.length_map, List.length_range]

/-- The partition field of an existing mode names one of the 64 partitions (spec R114, R147). -/
theorem bc7Part_lt {mode : Nat} (hmode : mode < 8) (b : Block) : bc7Part mode b < 64 := by
  have hpb : ∀ mode < 8, (bc7Mode mode).pb ≤ 6 := by decide
  exact (getField_lt _ _ _).trans_le (Nat.pow_le_pow_right (by decide) (hpb mode hmode))

section
variable {mode : Nat} (b : Block)

/-- The rotation follows the partition (spec R147). -/
theorem bc7Fields_rot : (bc7Fields mode b).rot = getField b (mode + 1 + (bc7Mode mode).pb) (bc7Mode mode).rb := by
  refine (getD_splitFields (bc7Widths mode (bc7Part mode b)) b.toNat 2).trans ?_
  simp [bc7Widths, bc7HeadWidths, getField, field]

/-- The index selection follows the rotation (spec R147). -/
theorem bc7Fields_isb : (bc7Fields mode b).isb =
    getField b (mode + 1 + (bc7Mode mode).pb + (bc7Mode mode).rb) (bc7Mode mode).isb := by
  refine (getD_splitFields (bc7Widths mode (bc7Part mode b)) b.toNat 3).trans ?_
  simp [bc7Widths, bc7HeadWidths, getField, field, Nat.add_assoc]

/-- The components of an endpoint stand channel by channel in the order of R147 (spec R147). -/
theorem chan_bc7Fields_q {e ch : Nat} (he : e < 2 * (bc7Mode mode).ns) (hch : ch < 4) :
    chan ((bc7Fields mode b).q.getD e []) ch =
      (splitFields (bc7Widths mode (bc7Part mode b)) b.toNat).getD (4 + (ch * (2 * (bc7Mode mode).ns) + e)) 0 := by
  rw [← Nat.add_assoc]
  interval_cases ch <;> simp [bc7Fields, chan, he, ← Nat.mul_assoc]

/-- The colour components of an endpoint (spec R147). -/
theorem bc7Fields_colour {e ch : Nat} (he : e < 2 * (bc7Mode mode).ns) (hch : ch < 3) :
    chan ((bc7Fields mode b).q.getD e []) ch =
      getField b (bc7ChanAt mode ch + e * (bc7Mode mode).cb) (bc7Mode mode).cb := by
  have hbefore : ch * (2 * (bc7Mode mode).ns) ≤ 2 * (2 * (bc7Mode mode).ns) :=
    Nat.mul_le_mul_right _ (Nat.le_of_lt_succ hch)
  have hstart : bc7ChanAt mode 0 + (ch * (2 * (bc7Mode mode).ns) + e) * (bc7Mode mode).cb =
      bc7ChanAt mode ch + e * (bc7Mode mode).cb := by
    simp only [bc7ChanAt]
    ring
  rw [chan_bc7Fields_q b he (by omega),
    getD_splitFields_replicate (bc7ColourWidths_prefix _ _) (length_widths_before_colours mode) (by omega),
    sum_widths_before_colours, hstart]
  rfl

/-- The alpha component of an endpoint (spec R147). -/
theorem bc7Fields_alpha {e : Nat} (he : e < 2 * (bc7Mode mode).ns) :
    chan ((bc7Fields mode b).q.getD e []) 3 =
      getField b (bc7ChanAt mode 3 + e * (bc7Mode mode).ab) (bc7Mode mode).ab := by
  rw [chan_bc7Fields_q b he (by decide), ← Nat.add_assoc, ← Nat.mul_assoc,
    getD_splitFields_replicate (bc7AlphaWidths_prefix _ _) (length_widths_before_alphas mode) he,
    sum_widths_before_alphas]
  rfl

/-- The p-bits stand in order behind the alpha fields (spec R147). -/
theorem bc7Fields_pb {j : Nat} (hj : j < pbitCount (bc7Mode mode)) :
    (bc7Fields mode b).pb.getD j 0 = getField b (bc7PbitAt mode + j) 1 := by
  have hfield := getD_splitFields_replicate (bc7PbitWidths_prefix mode (bc7Part mode b))
    (length_widths_before_pbits mode) hj b.toNat
  rw [sum_widths_before_pbits, Nat.mul_one] at hfield
  exact (getD_take_drop _ _ hj).trans hfield

/-- The primary selectors, one bit short for the anchors (spec R147, R149). -/
theorem bc7Fields_sel1 {i : Nat} (hi : i < 16) : (bc7Fields mode b).sel1.getD i 0 =
    getField b (bc7Sel1At mode + i * (bc7Mode mode).ib -
        ((List.range i).filter (isAnchor (bc7Mode mode).ns (bc7Part mode b))).length)
      (if isAnchor (bc7Mode mode).ns (bc7Part mode b) i then (bc7Mode mode).ib - 1 else (bc7Mode mode).ib) := by
  have hfield := getD_splitFields_short (bc7Sel1Widths_prefix mode (bc7Part mode b)) (length_bc7HeadWidths mode) hi
    b.toNat
  rw [sum_bc7HeadWidths] at hfield
  exact (getD_take_drop _ _ hi).trans hfield

/-- The secondary selectors, the first one bit short (spec R147, R149). -/
theorem bc7Fields_sel2 (hmode : mode < 8) {i : Nat} (hi : i < 16) : (bc7Fields mode b).sel2.getD i 0 =
    getField b (bc7Sel2At mode + i * (bc7Mode mode).ib2 - (if i = 0 then 0 else 1))
      (if i = 0 then (bc7Mode mode).ib2 - 1 else (bc7Mode mode).ib2) := by
  have hfield := getD_splitFields_short (bc7Sel2Widths_prefix mode (bc7Part mode b))
    (length_widths_before_sel2 mode _) hi b.toNat
  rw [sum_widths_before_sel2 hmode (bc7Part_lt hmode b), length_filter_range_zero] at hfield
  simp only [beq_iff_eq] at hfield
  exact (getD_take_drop _ _ hi).trans hfield

end

/-- An offset as the table of R147 prints it: 0 for a field the mode lacks. -/
def printedAt (width offset : Nat) : Nat := if width = 0 then 0 else offset

/-- A field read from a printed offset is the field read from the offset: one the mode lacks has no bits. -/
theorem getField_printedAt (b : Block) (f : Nat → Nat) {w v : Nat} (hv : v ≤ w) (o : Nat) :
    getField b (f (printedAt w o)) v = getField b (f o) v := by
  by_cases hw : w = 0
  · obtain rfl : v = 0 := by omega
    exact (field_width_zero _ _).trans (field_width_zero _ _).symm
  · rw [printedAt, if_neg hw]

/-- The row of R147's table for a mode: the mode and the offsets of partition, rotation, index selection, R, G, B, A,
p-bits and the two selector fields. -/
def bc7OffsetRow (mode : Nat) : Nat × Nat × Nat × Nat × List Nat × Nat × Nat × Nat :=
  let m := bc7Mode mode
  (mode, printedAt m.pb (mode + 1), printedAt m.rb (mode + 1 + m.pb), printedAt m.isb (mode + 1 + m.pb + m.rb),
    [bc7ChanAt mode 0, bc7ChanAt mode 1, bc7ChanAt mode 2, printedAt m.ab (bc7ChanAt mode 3)],
    printedAt (pbitCount m) (bc7PbitAt mode), bc7Sel1At mode, printedAt m.ib2 (bc7Sel2At mode))

end Sys2Proof.Machine
end

section
/-! The obligations of the BC format family (42_formats_bc.md). -/

namespace Sys2Proof.Machine

/-- Settles O54: the rows R147 prints are the computed ones, and each field of `bc7Fields` stands at its computed
offset. -/
theorem bc7FieldsAtPrintedOffsets : Obligations.Bc7FieldsAtPrintedOffsets := by
  unfold Obligations.Bc7FieldsAtPrintedOffsets
  change ∀ b : Block, ∀ row ∈ (List.range 8).map bc7OffsetRow, _
  intro b row hrow
  obtain ⟨mode, hmode, rfl⟩ := List.mem_map.mp hrow
  rw [List.mem_range] at hmode
  refine ⟨?_, ?_, ?_, fun e he => ⟨fun ch hch => ?_, ?_⟩, fun j hj => ?_, fun i hi => bc7Fields_sel1 b hi,
    fun i hi => ?_⟩
  · exact (getField_printedAt b id le_rfl (mode + 1)).symm
  · exact (bc7Fields_rot b).trans (getField_printedAt b id le_rfl _).symm
  · exact (bc7Fields_isb b).trans (getField_printedAt b id le_rfl _).symm
  · rw [bc7Fields_colour b he hch]
    interval_cases ch <;> rfl
  · exact (bc7Fields_alpha b he).trans (getField_printedAt b (· + e * (bc7Mode mode).ab) le_rfl _).symm
  · rw [bc7Fields_pb b hj, printedAt, if_neg (Nat.ne_zero_of_lt hj)]
  · have hwidth : (if i = 0 then (bc7Mode mode).ib2 - 1 else (bc7Mode mode).ib2) ≤ (bc7Mode mode).ib2 := by
      split_ifs <;> omega
    exact (bc7Fields_sel2 b hmode hi).trans
      (getField_printedAt b (· + i * (bc7Mode mode).ib2 - if i = 0 then 0 else 1) hwidth _).symm

end Sys2Proof.Machine
end

section
/-! SUPPORT. The tile a decoder leaves (R200): pixels whose channels are `0..255` are read back as they were written. -/

namespace Sys2Proof.Machine

/-- The channels of a pixel are channel values (spec R11). -/
def PxInRange (p : Px) : Prop := p.r < 256 ∧ p.g < 256 ∧ p.b < 256 ∧ p.a < 256

/-- A pixel of the tile buffer holds channel values (spec R21). -/
theorem tilePx_inRange (t : TileBuf) (i : Nat) : PxInRange (tilePx t i) :=
  ⟨tileByte_lt _ _, tileByte_lt _ _, tileByte_lt _ _, tileByte_lt _ _⟩

/-- Pixel `i` of the tile that a function of the pixel number gives (spec R200). -/
theorem tilePx_tileOfPixels_range {f : Nat → Px} {i : Nat} (hi : i < 16) (hf : PxInRange (f i)) :
    tilePx (tileOfPixels ((List.range 16).map f)) i = f i := by
  have hget : ((List.range 16).map f).getD i default = f i := by simp [hi]
  obtain ⟨hr, hg, hb, ha⟩ := hf
  rw [tilePx_tileOfPixels _ i hi (by rwa [hget]) (by rwa [hget]) (by rwa [hget]) (by rwa [hget]), hget]

/-- The pixels of the tile that a function of the pixel number gives (spec R200). -/
theorem tilePixels_tileOfPixels_range {f : Nat → Px} (hf : ∀ i < 16, PxInRange (f i)) :
    tilePixels (tileOfPixels ((List.range 16).map f)) = (List.range 16).map f :=
  List.map_congr_left fun i hi =>
    tilePx_tileOfPixels_range (List.mem_range.mp hi) (hf i (List.mem_range.mp hi))

/-- A field of 4 to 8 bits widens to a channel value (spec R10). -/
theorem expand_lt {n q : Nat} (hn : 4 ≤ n) (hn' : n ≤ 8) (hq : q < 2 ^ n) : expand n q < 256 := by
  unfold expand
  interval_cases n <;> simp at hq ⊢ <;> omega

end Sys2Proof.Machine
end

section
/-! SUPPORT. A pixel of a BC7 block (R148, R150, R151): the four channels as interpolations of one formula, in terms
of the stored components. -/

namespace Sys2Proof.Machine

/-- The modes have primary selectors of 2 to 4 bits and, in modes 4 and 5 only, secondary ones (spec R114). -/
theorem bc7Mode_selectorBits : ∀ mode < 8, (bc7Mode mode).ib ∈ [2, 3, 4] ∧ (bc7Mode mode).ib2 ∈ [0, 2, 3] := by decide

/-- The stored bits of channel `ch` of an endpoint, 0 for an alpha the mode lacks (spec R114). -/
def componentBits (m : Bc7ModeRow) (ch : Nat) : Nat := if ch = 3 then m.ab else m.cb

/-- Every mode stores colour (spec R114). -/
theorem bc7Mode_cb_pos : ∀ mode < 8, 0 < (bc7Mode mode).cb := by decide

/-- A stored component has 4 to 8 bits with its p-bit (spec R114). -/
theorem componentBits_bounds : ∀ mode < 8, ∀ ch < 4, componentBits (bc7Mode mode) ch = 0 ∨
    4 ≤ componentBits (bc7Mode mode) ch ∧ componentBits (bc7Mode mode) ch ≤ 8 ∧
      ((bc7Mode mode).epb = 1 ∨ (bc7Mode mode).spb = 1 → componentBits (bc7Mode mode) ch ≤ 7) := by
  decide

/-- A weight is at most 64 (spec R113). -/
theorem weight_le (n j : Nat) : weight n j ≤ 64 := by
  have hall : ∀ v ∈ weights n, v ≤ 64 := by
    unfold weights
    split <;> decide
  unfold weight
  rcases lt_or_ge j (weights n).length with hj | hj
  · rw [List.getD_eq_getElem _ _ hj]
    exact hall _ (List.getElem_mem hj)
  · rw [List.getD_eq_default _ _ hj]
    exact Nat.zero_le _

/-- An interpolation of channel values is a channel value (spec R150). -/
theorem interp_lt {lo hi w : Nat} (hlo : lo < 256) (hhi : hi < 256) (hw : w ≤ 64) : interp lo hi w < 256 := by
  have h1 : lo * (64 - w) ≤ 255 * (64 - w) := Nat.mul_le_mul_right _ (by omega)
  have h2 : hi * w ≤ 255 * w := Nat.mul_le_mul_right _ (by omega)
  unfold interp
  omega

/-- The subset of a pixel is one of the partition's (spec R117). -/
theorem subset_lt {ns part i : Nat} (hns : ns ∈ [1, 2, 3]) (hpart : part < 64) (hi : i < 16) :
    subset ns part i < ns := by
  simp only [List.mem_cons, List.not_mem_nil, or_false] at hns
  rcases hns with rfl | rfl | rfl
  · exact Nat.one_pos
  · exact part2_lt part i
  · exact part3_lt part hpart i hi

/-- A channel of an endpoint: its stored component reconstructed, or 255 for an alpha the mode lacks (spec R148). -/
theorem chan_bc7Endpoint {m : Bc7ModeRow} (hcb : 0 < m.cb) (pb : List Nat) (q : List Colour) (e : Nat) {ch : Nat}
    (hch : ch < 4) : chan (bc7Endpoint m pb q e) ch = if componentBits m ch = 0 then 255
      else reconstruct (componentBits m ch) (endpointPbit m pb e) (chan (q.getD e []) ch) := by
  interval_cases ch <;> simp [bc7Endpoint, componentBits, chan, hcb.ne']

/-- The weight of channel `ch` of pixel `i` (spec R150). -/
def channelWeight (f : Bc7Fields) (i ch : Nat) : Nat :=
  if ch = 3 then (bc7Weights (bc7Mode f.mode) f i).2 else (bc7Weights (bc7Mode f.mode) f i).1

/-- Channel `ch` of pixel `i` before the rotation (spec R150). -/
def bc7Mix (f : Bc7Fields) (i ch : Nat) : Nat :=
  interp (chan (bc7Endpoint (bc7Mode f.mode) f.pb f.q (2 * subset (bc7Mode f.mode).ns f.part i)) ch)
    (chan (bc7Endpoint (bc7Mode f.mode) f.pb f.q (2 * subset (bc7Mode f.mode).ns f.part i + 1)) ch)
    (channelWeight f i ch)

/-- A pixel is its four channels, rotated (spec R150, R151). -/
theorem bc7Pixel_eq (f : Bc7Fields) (i : Nat) :
    bc7Pixel f i = rotatePx f.rot ⟨bc7Mix f i 0, bc7Mix f i 1, bc7Mix f i 2, bc7Mix f i 3⟩ := rfl

/-- Two pixels agree when their rotations and their channels do. -/
theorem bc7Pixel_congr {f g : Bc7Fields} {i : Nat} (hrot : f.rot = g.rot)
    (hmix : ∀ ch < 4, bc7Mix f i ch = bc7Mix g i ch) : bc7Pixel f i = bc7Pixel g i := by
  rw [bc7Pixel_eq, bc7Pixel_eq, hrot, hmix 0 (by decide), hmix 1 (by decide), hmix 2 (by decide), hmix 3 (by decide)]

/-- The rotation only exchanges channels (spec R151). -/
theorem rotatePx_inRange {p : Px} (rot : Nat) (hp : PxInRange p) : PxInRange (rotatePx rot p) := by
  obtain ⟨hr, hg, hb, ha⟩ := hp
  unfold rotatePx
  split <;> exact ⟨by assumption, by assumption, by assumption, by assumption⟩

/-- Every weight of a pixel is at most 64 (spec R113, R150). -/
theorem channelWeight_le (f : Bc7Fields) (i ch : Nat) : channelWeight f i ch ≤ 64 := by
  unfold channelWeight bc7Weights
  split_ifs <;> exact weight_le _ _

section
variable {mode : Nat} (b : Block)

/-- The components of a block fit their stored bits (spec R147). -/
theorem chan_bc7Fields_q_lt {e ch : Nat} (he : e < 2 * (bc7Mode mode).ns) (hch : ch < 4) :
    chan ((bc7Fields mode b).q.getD e []) ch < 2 ^ componentBits (bc7Mode mode) ch := by
  unfold componentBits
  split
  · next h => subst h; rw [bc7Fields_alpha b he]; exact getField_lt _ _ _
  · rw [bc7Fields_colour b he (by omega)]; exact getField_lt _ _ _

/-- The p-bit of an endpoint of a block is a bit (spec R147, R148). -/
theorem endpointPbit_bc7Fields_lt {e p : Nat} (he : e < 2 * (bc7Mode mode).ns)
    (hp : endpointPbit (bc7Mode mode) (bc7Fields mode b).pb e = some p) :
    p < 2 ∧ ((bc7Mode mode).epb = 1 ∨ (bc7Mode mode).spb = 1) := by
  have hbit : ∀ j < pbitCount (bc7Mode mode), (bc7Fields mode b).pb.getD j 0 < 2 := fun j hj => by
    rw [bc7Fields_pb b hj]; exact getField_lt _ _ _
  unfold endpointPbit at hp
  split_ifs at hp with hepb hspb
  · obtain rfl := Option.some.inj hp
    exact ⟨hbit e (by rw [pbitCount, hepb]; omega), .inl hepb⟩
  · obtain rfl := Option.some.inj hp
    exact ⟨hbit (e / 2) (by rw [pbitCount, hspb]; omega), .inr hspb⟩

variable (hmode : mode < 8)
include hmode

/-- The endpoints of a block have channel values (spec R148). -/
theorem chan_bc7Endpoint_lt {e ch : Nat} (he : e < 2 * (bc7Mode mode).ns) (hch : ch < 4) :
    chan (bc7Endpoint (bc7Mode mode) (bc7Fields mode b).pb (bc7Fields mode b).q e) ch < 256 := by
  have hq := chan_bc7Fields_q_lt b he hch
  rw [chan_bc7Endpoint (bc7Mode_cb_pos mode hmode) _ _ _ hch]
  split
  · decide
  · next hbits =>
    obtain ⟨h4, h8, h7⟩ := (componentBits_bounds mode hmode ch hch).resolve_left hbits
    unfold reconstruct
    split
    · next p hp =>
      obtain ⟨hp2, hhas⟩ := endpointPbit_bc7Fields_lt b he hp
      exact expand_lt (by omega) (Nat.succ_le_succ (h7 hhas)) (by rw [Nat.pow_succ]; omega)
    · exact expand_lt h4 h8 hq

/-- The pixels of a block have channel values (spec R150). -/
theorem bc7Pixel_bc7Fields_inRange {i : Nat} (hi : i < 16) : PxInRange (bc7Pixel (bc7Fields mode b) i) := by
  have hsub : subset (bc7Mode mode).ns (bc7Part mode b) i < (bc7Mode mode).ns :=
    subset_lt (bc7Mode_ib_ns mode hmode).2 (bc7Part_lt hmode b) hi
  have hmix : ∀ ch < 4, bc7Mix (bc7Fields mode b) i ch < 256 := fun ch hch =>
    interp_lt (chan_bc7Endpoint_lt b hmode (show 2 * subset (bc7Mode mode).ns (bc7Part mode b) i < _ by omega) hch)
      (chan_bc7Endpoint_lt b hmode (show 2 * subset (bc7Mode mode).ns (bc7Part mode b) i + 1 < _ by omega) hch)
      (channelWeight_le _ _ _)
  rw [bc7Pixel_eq]
  exact rotatePx_inRange _ ⟨hmix 0 (by decide), hmix 1 (by decide), hmix 2 (by decide), hmix 3 (by decide)⟩

end

/-- The mode is 8 or the number of a mode (spec R146). -/
theorem trailingZeros_le (fuel x : Nat) : trailingZeros fuel x ≤ fuel := by
  induction fuel generalizing x with
  | zero => rfl
  | succ fuel ih =>
    unfold trailingZeros
    split
    · exact Nat.zero_le _
    · have := ih (x / 2)
      omega

/-- The number of low-order zeros is the place of the lowest bit set (spec R146). -/
theorem trailingZeros_eq {fuel x m : Nat} (hm : m < fuel) (hset : x.testBit m = true)
    (hclear : ∀ k < m, x.testBit k = false) : trailingZeros fuel x = m := by
  induction fuel generalizing x m with
  | zero => omega
  | succ fuel ih =>
    unfold trailingZeros
    cases m with
    | zero => rw [if_pos (by simpa using hset)]
    | succ m =>
      have hlow : ¬x % 2 = 1 := by simpa using hclear 0 (Nat.succ_pos m)
      rw [if_neg hlow, ih (m := m) (by omega) (by rwa [← Nat.testBit_succ])
        fun k hk => by rw [← Nat.testBit_succ]; exact hclear (k + 1) (by omega)]
      omega

/-- The mode of a block is the place of the lowest bit set in its first byte (spec R146). -/
theorem bc7ModeOf_eq {b : Block} {m : Nat} (hm : m < 8) (hset : b.getLsbD m = true)
    (hclear : ∀ k < m, b.getLsbD k = false) : bc7ModeOf b = m := by
  have hbit : ∀ k < 8, (getField b 0 8).testBit k = b.getLsbD k := fun k hk => by
    rw [getField_testBit, Nat.zero_add]; simp [hk]
  exact trailingZeros_eq hm ((hbit m hm).trans hset) fun k hk => (hbit k (by omega)).trans (hclear k hk)

/-- The pixels of a block of an existing mode (spec R152). -/
theorem bc7Decode_of_mode {b : Block} {mode : Nat} (hmode : mode < 8) (hb : bc7ModeOf b = mode) :
    bc7Decode b = (List.range 16).map (bc7Pixel (bc7Fields mode b)) := by
  subst hb
  simp only [bc7Decode]
  rw [if_neg (by omega)]

/-- A block with the reserved mode is all zero (spec R152). -/
theorem bc7Decode_reserved {b : Block} (hb : bc7ModeOf b = 8) :
    bc7Decode b = (List.range 16).map fun _ => ⟨0, 0, 0, 0⟩ := by
  simp only [bc7Decode, hb, if_true]
  rfl

/-- The tile `DEC.BC7` writes holds exactly the pixels of the block (spec R205, R153). -/
theorem tilePixels_bc7Decode (b : Block) : tilePixels (tileOfPixels (bc7Decode b)) = bc7Decode b := by
  rcases (trailingZeros_le 8 _ : bc7ModeOf b ≤ 8).lt_or_eq with hmode | hmode
  · rw [bc7Decode_of_mode hmode rfl]
    exact tilePixels_tileOfPixels_range fun i hi => bc7Pixel_bc7Fields_inRange b hmode hi
  · rw [bc7Decode_reserved hmode]
    exact tilePixels_tileOfPixels_range fun _ _ => ⟨by decide, by decide, by decide, by decide⟩

end Sys2Proof.Machine
end

section
/-! SUPPORT. The choices of the BC7 search (R292): their legality as a proposition, and what canonicalisation (R297)
does to the pixels they stand for. -/

namespace Sys2Proof.Machine

/-- The modes the contract allows for a tile (spec R291, R292 (a)). -/
def AllowedMode (px : List Px) (mode : Nat) : Prop :=
  if opaqueTile px = true then mode = 6 ∨ mode = 1 else mode = 6 ∨ mode = 5 ∨ mode = 7

/-- The modes the contract allows are those the encoder emits (spec R291). -/
theorem AllowedMode.mem {px : List Px} {mode : Nat} (h : AllowedMode px mode) : mode ∈ [1, 5, 6, 7] := by
  unfold AllowedMode at h
  split_ifs at h <;> simp <;> tauto

/-- Every component of an endpoint record fits its stored bits (spec R292 (c)). -/
def ComponentsFit (m : Bc7ModeRow) (c : Colour) : Prop := ∀ ch < 4, chan c ch < 2 ^ componentBits m ch

/-- The properties (b) to (d) of R292, for a choice in one of the modes the encoder emits. -/
structure LegalChoice (c : Choice) : Prop where
  mode_mem : c.mode ∈ [1, 5, 6, 7]
  part_lt : c.part < 64
  part_eq : (bc7Mode c.mode).pb = 0 → c.part = 0
  q_length : c.q.length = 2 * (bc7Mode c.mode).ns
  q_fits : ∀ x ∈ c.q, x.length = 4 ∧ ComponentsFit (bc7Mode c.mode) x
  pb_length : c.pb.length = pbitCount (bc7Mode c.mode)
  pb_fits : ∀ p ∈ c.pb, p < 2
  sel1_length : c.sel1.length = 16
  sel1_fits : ∀ j ∈ c.sel1, j < 2 ^ (bc7Mode c.mode).ib
  sel2_length : c.sel2.length = if (bc7Mode c.mode).ib2 = 0 then 0 else 16
  sel2_fits : ∀ j ∈ c.sel2, j < 2 ^ (bc7Mode c.mode).ib2

/-- The check of one endpoint record, as a proposition. -/
theorem endpointFits_iff (m : Bc7ModeRow) (c : Colour) :
    endpointFits m c = true ↔ c.length = 4 ∧ ComponentsFit m c := by
  simp only [endpointFits, Bool.and_eq_true, beq_iff_eq, and_assoc, and_congr_right_iff]
  intro hlen
  obtain ⟨r, g, b, a, rfl⟩ : ∃ r g b a, c = [r, g, b, a] := by
    match c, hlen with
    | [r, g, b, a], _ => exact ⟨r, g, b, a, rfl⟩
  simp only [ComponentsFit, Nat.forall_lt_succ_right, Nat.not_lt_zero, false_imp_iff, implies_true, true_and]
  simp [fitsBits, chan, componentBits, and_assoc]

/-- The contract of a BC7 choice, as a proposition (spec R292). -/
theorem choiceContract_iff (px : List Px) (c : Choice) :
    choiceContract px c = true ↔ AllowedMode px c.mode ∧ LegalChoice c := by
  have hmode : (if opaqueTile px = true then (c.mode == 6 || c.mode == 1)
      else (c.mode == 6 || c.mode == 5 || c.mode == 7)) = true ↔ AllowedMode px c.mode := by
    unfold AllowedMode
    split_ifs <;> simp [or_assoc]
  have hpart : (if (bc7Mode c.mode).pb = 0 then c.part == 0 else decide (c.part < 64)) = true ↔
      c.part < 64 ∧ ((bc7Mode c.mode).pb = 0 → c.part = 0) := by
    split_ifs with h <;> simp [h]
    omega
  simp only [choiceContract, Bool.and_eq_true, hmode, hpart, beq_iff_eq, List.all_eq_true, endpointFits_iff, fitsBits,
    decide_eq_true_eq]
  constructor
  · rintro ⟨⟨⟨⟨⟨⟨⟨⟨⟨ha, hp, hp0⟩, hql⟩, hq⟩, hpl⟩, hpb⟩, h1l⟩, h1⟩, h2l⟩, h2⟩
    exact ⟨ha, ha.mem, hp, hp0, hql, hq, hpl, hpb, h1l, h1, h2l, h2⟩
  · rintro ⟨ha, -, hp, hp0, hql, hq, hpl, hpb, h1l, h1, h2l, h2⟩
    exact ⟨⟨⟨⟨⟨⟨⟨⟨⟨ha, hp, hp0⟩, hql⟩, hq⟩, hpl⟩, hpb⟩, h1l⟩, h1⟩, h2l⟩, h2⟩

/-- A looked-up entry has what every entry and the default have. -/
theorem getD_of_forall_mem {α : Type} {P : α → Prop} {xs : List α} {d : α} (hxs : ∀ x ∈ xs, P x) (hd : P d)
    (k : Nat) : P (xs.getD k d) := by
  rcases lt_or_ge k xs.length with hk | hk
  · rw [List.getD_eq_getElem _ _ hk]
    exact hxs _ (List.getElem_mem hk)
  · rwa [List.getD_eq_default _ _ hk]

/-- The facts about the emitted modes that the proofs below use (spec R114). -/
theorem emitted_mode_facts : ∀ mode ∈ [1, 5, 6, 7], mode < 8 ∧ (bc7Mode mode).isb = 0 ∧
    ((bc7Mode mode).ib2 = 0 ∨ mode = 5) ∧ ((bc7Mode mode).spb = 1 → (bc7Mode mode).epb = 0) := by
  decide

namespace LegalChoice

variable {c : Choice} (h : LegalChoice c)
include h

/-- A legal choice is in an existing mode. -/
theorem mode_lt : c.mode < 8 := (emitted_mode_facts _ h.mode_mem).1

/-- A legal choice has one to three subsets. -/
theorem ns_mem : (bc7Mode c.mode).ns ∈ [1, 2, 3] := (bc7Mode_ib_ns _ h.mode_lt).2

/-- A legal choice has primary selectors of 2 to 4 bits. -/
theorem ib_mem : (bc7Mode c.mode).ib ∈ [2, 3, 4] := (bc7Mode_selectorBits _ h.mode_lt).1

/-- A primary selector of a legal choice fits its bits. -/
theorem sel1_getD_lt (i : Nat) : c.sel1.getD i 0 < 2 ^ (bc7Mode c.mode).ib :=
  getD_of_forall_mem h.sel1_fits (Nat.two_pow_pos _) i

/-- A secondary selector of a legal choice fits its bits. -/
theorem sel2_getD_lt (i : Nat) : c.sel2.getD i 0 < 2 ^ (bc7Mode c.mode).ib2 :=
  getD_of_forall_mem h.sel2_fits (Nat.two_pow_pos _) i

/-- An endpoint record of a legal choice fits its stored bits. -/
theorem componentsFit_getD (e : Nat) : ComponentsFit (bc7Mode c.mode) (c.q.getD e []) :=
  getD_of_forall_mem (fun x hx => (h.q_fits x hx).2) (fun _ _ => Nat.two_pow_pos _) e

end LegalChoice

/-- The other endpoint of subset `s`; an endpoint of another subset is left as it is. -/
def swapIndex (s e : Nat) : Nat := if e = 2 * s then 2 * s + 1 else if e = 2 * s + 1 then 2 * s else e

/-- A pair exchanged is two entries written. -/
theorem swapPair_eq {α : Type} {s : Nat} {xs : List α} (h : 2 * s + 1 < xs.length) :
    swapPair s xs = (xs.set (2 * s) xs[2 * s + 1]).set (2 * s + 1) xs[2 * s] := by
  have h' : 2 * s < xs.length := by omega
  simp [swapPair, h, h']

/-- The entries after a pair is exchanged. -/
theorem getD_swapPair {α : Type} {s : Nat} {xs : List α} (h : 2 * s + 1 < xs.length) (d : α) (e : Nat) :
    (swapPair s xs).getD e d = xs.getD (swapIndex s e) d := by
  have h' : 2 * s < xs.length := by omega
  rw [swapPair_eq h, List.getD_eq_getElem?_getD, List.getD_eq_getElem?_getD, List.getElem?_set, List.getElem?_set,
    List.length_set, swapIndex]
  by_cases hlow : e = 2 * s
  · simp [hlow, h, h']
  · by_cases hhigh : e = 2 * s + 1
    · simp [hhigh, h, h']
    · simp [hlow, hhigh, Ne.symm hlow, Ne.symm hhigh]

/-- Exchanging a pair keeps the number of entries. -/
theorem length_swapPair {α : Type} (s : Nat) (xs : List α) : (swapPair s xs).length = xs.length := by
  unfold swapPair
  split <;> simp

/-- Exchanging a pair adds no entry. -/
theorem mem_of_mem_swapPair {α : Type} {s : Nat} {xs : List α} {x : α} (hx : x ∈ swapPair s xs) : x ∈ xs := by
  unfold swapPair at hx
  split at hx
  · next y z hy hz =>
    rcases List.mem_or_eq_of_mem_set hx with hx | rfl
    · rcases List.mem_or_eq_of_mem_set hx with hx | rfl
      · exact hx
      · exact List.mem_of_getElem? hz
    · exact List.mem_of_getElem? hy
  · exact hx

end Sys2Proof.Machine
end

section
/-! SUPPORT. Canonicalisation (R297): exchanging the endpoints of a subset and inverting its selectors changes no
pixel, since the weights are symmetric (R113); it leaves every anchor selector with its top bit clear. -/

namespace Sys2Proof.Machine

/-- A choice with the primary selectors of subset `s` inverted and the endpoints they select between exchanged (spec
R297). -/
def flipChoice (c : Choice) (s : Nat) : Choice :=
  { c with
    sel1 := flipSubset (bc7Mode c.mode) c.part s c.sel1
    q := if c.mode = 5 then swapRgb c.q else swapPair s c.q
    pb := if (bc7Mode c.mode).epb = 1 then swapPair s c.pb else c.pb }

/-- A mode 5 choice with the secondary selectors inverted and the alpha endpoints exchanged (spec R297). -/
def flipAlpha (c : Choice) : Choice := { c with sel2 := c.sel2.map fun j => 3 - j, q := swapAlpha c.q }

/-- A subset is inverted when its anchor selector has its top bit set (spec R297). -/
theorem canonSubset_eq (c : Choice) (s : Nat) : canonSubset c s =
    if c.sel1.getD (anchor (bc7Mode c.mode).ns c.part s) 0 ≥ 2 ^ ((bc7Mode c.mode).ib - 1) then flipChoice c s
    else c := rfl

/-- The alpha of mode 5 is inverted when its first selector has its top bit set (spec R297). -/
theorem canonAlpha_eq (c : Choice) :
    canonAlpha c = if c.mode = 5 ∧ c.sel2.getD 0 0 ≥ 2 then flipAlpha c else c := rfl

/-- A channel whose endpoints and weight are kept is kept. -/
theorem bc7Mix_of_eq {f g : Bc7Fields} {i ch : Nat} (hmode : g.mode = f.mode) (hpart : g.part = f.part)
    (hends : ∀ e, chan (bc7Endpoint (bc7Mode f.mode) g.pb g.q e) ch = chan (bc7Endpoint (bc7Mode f.mode) f.pb f.q e) ch)
    (hweight : channelWeight g i ch = channelWeight f i ch) : bc7Mix g i ch = bc7Mix f i ch := by
  unfold bc7Mix
  rw [hmode, hpart, hends, hends, hweight]

/-- A channel is kept when the endpoints of a subset are exchanged and the weights of its pixels are taken from the
other end (spec R150, R297). -/
theorem bc7Mix_of_swapIndex {f g : Bc7Fields} {i ch s : Nat} (hmode : g.mode = f.mode) (hpart : g.part = f.part)
    (hends : ∀ e, chan (bc7Endpoint (bc7Mode f.mode) g.pb g.q e) ch =
      chan (bc7Endpoint (bc7Mode f.mode) f.pb f.q (swapIndex s e)) ch)
    (hweight : channelWeight g i ch =
      if subset (bc7Mode f.mode).ns f.part i = s then 64 - channelWeight f i ch else channelWeight f i ch) :
    bc7Mix g i ch = bc7Mix f i ch := by
  unfold bc7Mix
  rw [hmode, hpart, hends, hends, hweight]
  by_cases hs : subset (bc7Mode f.mode).ns f.part i = s
  · have hlow : swapIndex s (2 * s) = 2 * s + 1 := by simp [swapIndex]
    have hhigh : swapIndex s (2 * s + 1) = 2 * s := by simp [swapIndex]
    rw [if_pos hs, hs, hlow, hhigh, interp_symm _ _ _ (channelWeight_le f i ch)]
  · have hkeep : ∀ e, e / 2 = subset (bc7Mode f.mode).ns f.part i → swapIndex s e = e := fun e he => by
      unfold swapIndex
      rw [if_neg (by omega), if_neg (by omega)]
    rw [if_neg hs, hkeep _ (by omega), hkeep _ (by omega)]

/-- Endpoints with equal stored components and p-bits have equal channels (spec R148). -/
theorem chan_bc7Endpoint_congr {m : Bc7ModeRow} (hcb : 0 < m.cb) {pb pb' : List Nat} {q q' : List Colour}
    {e e' ch : Nat} (hch : ch < 4) (hpbit : endpointPbit m pb' e' = endpointPbit m pb e)
    (hq : chan (q'.getD e' []) ch = chan (q.getD e []) ch) :
    chan (bc7Endpoint m pb' q' e') ch = chan (bc7Endpoint m pb q e) ch := by
  rw [chan_bc7Endpoint hcb _ _ _ hch, chan_bc7Endpoint hcb _ _ _ hch, hpbit, hq]

/-- The weight of a channel of a choice: alpha has its own selectors where the mode has secondary ones (spec R150). -/
theorem channelWeight_choiceFields (c : Choice) (i ch : Nat) : channelWeight (choiceFields c) i ch =
    if ch = 3 ∧ (bc7Mode c.mode).ib2 ≠ 0 then weight (bc7Mode c.mode).ib2 (c.sel2.getD i 0)
    else weight (bc7Mode c.mode).ib (c.sel1.getD i 0) := by
  unfold channelWeight bc7Weights choiceFields
  by_cases hch : ch = 3 <;> by_cases hib : (bc7Mode c.mode).ib2 = 0 <;> simp [hch, hib]

/-- The selector of a pixel after those of a subset are inverted (spec R297). -/
theorem getD_flipSubset (m : Bc7ModeRow) (part s : Nat) (sel : List Nat) {i : Nat} (hi : i < 16) :
    (flipSubset m part s sel).getD i 0 =
      if subset m.ns part i = s then 2 ^ m.ib - 1 - sel.getD i 0 else sel.getD i 0 :=
  getD_map_range _ (List.mem_range.mpr hi)

/-- The p-bits of the endpoints follow the endpoints when a pair is exchanged; a p-bit the two share stays. -/
theorem endpointPbit_swapPair {m : Bc7ModeRow} {pb : List Nat} {s : Nat} (hlen : m.epb = 1 → 2 * s + 1 < pb.length)
    (e : Nat) : endpointPbit m (if m.epb = 1 then swapPair s pb else pb) e = endpointPbit m pb (swapIndex s e) := by
  unfold endpointPbit
  by_cases hepb : m.epb = 1
  · simp only [hepb, if_true, getD_swapPair (hlen hepb)]
  · have hhalf : swapIndex s e / 2 = e / 2 := by
      unfold swapIndex
      split_ifs <;> omega
    simp only [hepb, if_false, hhalf]

/-- A list of two endpoint records. -/
theorem eq_pair_of_length {q : List Colour} (h : q.length = 2) : ∃ a b, q = [a, b] := by
  match q, h with
  | [a, b], _ => exact ⟨a, b, rfl⟩

/-- Exchanging R, G and B of two endpoint records leaves alpha (spec R297). -/
theorem chan_getD_swapRgb {q : List Colour} (h : q.length = 2) (e : Nat) {ch : Nat} (hch : ch < 4) :
    chan ((swapRgb q).getD e []) ch = chan (q.getD (if ch = 3 then e else swapIndex 0 e) []) ch := by
  obtain ⟨a, b, rfl⟩ := eq_pair_of_length h
  rcases e with - | - | e <;> interval_cases ch <;> simp [swapRgb, swapIndex, chan]

/-- Exchanging alpha of two endpoint records leaves R, G and B (spec R297). -/
theorem chan_getD_swapAlpha {q : List Colour} (h : q.length = 2) (e : Nat) {ch : Nat} (hch : ch < 4) :
    chan ((swapAlpha q).getD e []) ch = chan (q.getD (if ch = 3 then swapIndex 0 e else e) []) ch := by
  obtain ⟨a, b, rfl⟩ := eq_pair_of_length h
  rcases e with - | - | e <;> interval_cases ch <;> simp [swapAlpha, swapIndex, chan]

/-- Records put together from the channels of fitting records fit. -/
theorem endpointFits_of_channels {m : Bc7ModeRow} {w x y z : Colour} (hw : ComponentsFit m w)
    (hx : ComponentsFit m x) (hy : ComponentsFit m y) (hz : ComponentsFit m z) :
    [chan w 0, chan x 1, chan y 2, chan z 3].length = 4 ∧
      ComponentsFit m [chan w 0, chan x 1, chan y 2, chan z 3] := by
  refine ⟨rfl, fun ch hch => ?_⟩
  interval_cases ch
  exacts [hw 0 hch, hx 1 hch, hy 2 hch, hz 3 hch]

namespace LegalChoice

variable {c : Choice} (h : LegalChoice c)
include h

/-- Mode 5 is the only emitted mode with secondary selectors, and it has one subset (spec R114). -/
theorem ib2_eq_zero (h5 : c.mode ≠ 5) : (bc7Mode c.mode).ib2 = 0 :=
  (emitted_mode_facts _ h.mode_mem).2.2.1.resolve_right h5

/-- Inverting a subset keeps a choice legal (spec R297, R292). -/
theorem flipChoice (s : Nat) : LegalChoice (flipChoice c s) where
  mode_mem := h.mode_mem
  part_lt := h.part_lt
  part_eq := h.part_eq
  q_length := by
    by_cases h5 : c.mode = 5
    · simp [Machine.flipChoice, h5, swapRgb, bc7Mode]
    · simp [Machine.flipChoice, h5, length_swapPair, h.q_length]
  q_fits := by
    by_cases h5 : c.mode = 5
    · have hq := h.componentsFit_getD
      simp only [Machine.flipChoice, h5, if_true, swapRgb, List.mem_cons, List.not_mem_nil, or_false]
      simp only [h5] at hq
      rintro x (rfl | rfl)
      · exact endpointFits_of_channels (hq 1) (hq 1) (hq 1) (hq 0)
      · exact endpointFits_of_channels (hq 0) (hq 0) (hq 0) (hq 1)
    · simp only [Machine.flipChoice, h5, if_false]
      exact fun x hx => h.q_fits x (mem_of_mem_swapPair hx)
  pb_length := by
    simp only [Machine.flipChoice]
    split
    · rw [length_swapPair, h.pb_length]
    · exact h.pb_length
  pb_fits := by
    simp only [Machine.flipChoice]
    split
    · exact fun p hp => h.pb_fits p (mem_of_mem_swapPair hp)
    · exact h.pb_fits
  sel1_length := by simp [Machine.flipChoice, flipSubset]
  sel1_fits := by
    simp only [Machine.flipChoice, flipSubset, List.mem_map]
    rintro j ⟨i, -, rfl⟩
    have hj := h.sel1_getD_lt i
    split <;> omega
  sel2_length := h.sel2_length
  sel2_fits := h.sel2_fits

/-- Inverting a primary selector takes its weight from the other end (spec R113). -/
theorem weight_invert (i : Nat) : weight (bc7Mode c.mode).ib (2 ^ (bc7Mode c.mode).ib - 1 - c.sel1.getD i 0) =
    64 - weight (bc7Mode c.mode).ib (c.sel1.getD i 0) :=
  (weight_symm _ h.ib_mem).2 _ (h.sel1_getD_lt i)

/-- The weights after a subset is inverted, of a channel that the primary selectors serve (spec R297). -/
theorem channelWeight_flipChoice {s i ch : Nat} (hi : i < 16) (hch : ¬(ch = 3 ∧ (bc7Mode c.mode).ib2 ≠ 0)) :
    channelWeight (choiceFields (Machine.flipChoice c s)) i ch =
      if subset (bc7Mode c.mode).ns c.part i = s then 64 - channelWeight (choiceFields c) i ch
      else channelWeight (choiceFields c) i ch := by
  rw [channelWeight_choiceFields, channelWeight_choiceFields, if_neg hch]
  simp only [Machine.flipChoice, getD_flipSubset _ _ _ _ hi]
  rw [if_neg hch]
  split
  · exact h.weight_invert i
  · rfl

/-- Inverting a subset changes no channel of a pixel (spec R297). -/
theorem bc7Mix_flipChoice {s i ch : Nat} (hs : s < (bc7Mode c.mode).ns) (hi : i < 16) (hch : ch < 4) :
    bc7Mix (choiceFields (Machine.flipChoice c s)) i ch = bc7Mix (choiceFields c) i ch := by
  have hcb := bc7Mode_cb_pos _ h.mode_lt
  by_cases h5 : c.mode = 5
  · have hs0 : s = 0 := by rw [h5] at hs; exact Nat.lt_one_iff.mp hs
    have hlen : c.q.length = 2 := by rw [h.q_length, h5]; rfl
    have hends : ∀ e, chan (bc7Endpoint (bc7Mode c.mode) (Machine.flipChoice c s).pb (Machine.flipChoice c s).q e) ch =
        chan (bc7Endpoint (bc7Mode c.mode) c.pb c.q (if ch = 3 then e else swapIndex 0 e)) ch := fun e => by
      have hq : (Machine.flipChoice c s).q = swapRgb c.q := if_pos h5
      exact chan_bc7Endpoint_congr hcb hch (by rw [h5]; rfl) (hq ▸ chan_getD_swapRgb hlen e hch)
    by_cases h3 : ch = 3
    · refine bc7Mix_of_eq rfl rfl (fun e => (hends e).trans (by rw [if_pos h3]; rfl)) ?_
      have halpha : ch = 3 ∧ (bc7Mode c.mode).ib2 ≠ 0 := ⟨h3, by rw [h5]; decide⟩
      rw [channelWeight_choiceFields, channelWeight_choiceFields, if_pos halpha]
      exact if_pos halpha
    · subst hs0
      exact bc7Mix_of_swapIndex (s := 0) rfl rfl (fun e => (hends e).trans (by rw [if_neg h3]; rfl))
        (h.channelWeight_flipChoice hi fun hc => h3 hc.1)
  · have hq : (Machine.flipChoice c s).q = swapPair s c.q := if_neg h5
    have hqlen : 2 * s + 1 < c.q.length := by rw [h.q_length]; omega
    have hpblen : (bc7Mode c.mode).epb = 1 → 2 * s + 1 < c.pb.length := fun hepb => by
      rw [h.pb_length, pbitCount, hepb]
      omega
    refine bc7Mix_of_swapIndex (s := s) rfl rfl (fun e => ?_)
      (h.channelWeight_flipChoice hi fun hc => hc.2 (h.ib2_eq_zero h5))
    change chan (bc7Endpoint (bc7Mode c.mode) (Machine.flipChoice c s).pb (Machine.flipChoice c s).q e) ch =
      chan (bc7Endpoint (bc7Mode c.mode) c.pb c.q (swapIndex s e)) ch
    exact chan_bc7Endpoint_congr hcb hch (endpointPbit_swapPair hpblen e) (by rw [hq, getD_swapPair hqlen])

/-- Inverting alpha keeps a mode 5 choice legal (spec R297, R292). -/
theorem flipAlpha (h5 : c.mode = 5) : LegalChoice (flipAlpha c) where
  mode_mem := h.mode_mem
  part_lt := h.part_lt
  part_eq := h.part_eq
  q_length := by simp [Machine.flipAlpha, h5, swapAlpha, bc7Mode]
  q_fits := by
    have hq := h.componentsFit_getD
    simp only [Machine.flipAlpha, swapAlpha, List.mem_cons, List.not_mem_nil, or_false]
    rintro x (rfl | rfl)
    · exact endpointFits_of_channels (hq 0) (hq 0) (hq 0) (hq 1)
    · exact endpointFits_of_channels (hq 1) (hq 1) (hq 1) (hq 0)
  pb_length := h.pb_length
  pb_fits := h.pb_fits
  sel1_length := h.sel1_length
  sel1_fits := h.sel1_fits
  sel2_length := List.length_map _ |>.trans h.sel2_length
  sel2_fits := by
    have hib2 : (bc7Mode c.mode).ib2 = 2 := by rw [h5]; rfl
    simp only [Machine.flipAlpha, List.mem_map, hib2]
    rintro j ⟨k, -, rfl⟩
    omega

/-- Inverting alpha changes no channel of a pixel (spec R297). -/
theorem bc7Mix_flipAlpha (h5 : c.mode = 5) {i ch : Nat} (hi : i < 16) (hch : ch < 4) :
    bc7Mix (choiceFields (Machine.flipAlpha c)) i ch = bc7Mix (choiceFields c) i ch := by
  have hcb := bc7Mode_cb_pos _ h.mode_lt
  have hlen : c.q.length = 2 := by rw [h.q_length, h5]; rfl
  have hib2 : (bc7Mode c.mode).ib2 = 2 := by rw [h5]; rfl
  have hends : ∀ e, chan (bc7Endpoint (bc7Mode c.mode) (Machine.flipAlpha c).pb (Machine.flipAlpha c).q e) ch =
      chan (bc7Endpoint (bc7Mode c.mode) c.pb c.q (if ch = 3 then swapIndex 0 e else e)) ch := fun e =>
    chan_bc7Endpoint_congr hcb hch (by rw [h5]; rfl) (chan_getD_swapAlpha hlen e hch)
  by_cases h3 : ch = 3
  · refine bc7Mix_of_swapIndex (s := 0) rfl rfl (fun e => (hends e).trans (by rw [if_pos h3]; rfl)) ?_
    have hsub : subset (bc7Mode c.mode).ns c.part i = 0 := by rw [h5]; rfl
    have hsel : (Machine.flipAlpha c).sel2.getD i 0 = 3 - c.sel2.getD i 0 := by
      have hi' : i < c.sel2.length := by rw [h.sel2_length, hib2]; exact hi
      simp [Machine.flipAlpha, hi']
    have hj : c.sel2.getD i 0 < 2 ^ 2 := hib2 ▸ h.sel2_getD_lt i
    have hw : weight 2 (3 - c.sel2.getD i 0) = 64 - weight 2 (c.sel2.getD i 0) :=
      (weight_symm 2 (by decide)).2 _ hj
    have hmode : (Machine.flipAlpha c).mode = c.mode := rfl
    simp only [channelWeight_choiceFields, hmode, hib2, h3, hsel, hw]
    simp [choiceFields, hsub]
  · refine bc7Mix_of_eq rfl rfl (fun e => (hends e).trans (by rw [if_neg h3]; rfl)) ?_
    rw [channelWeight_choiceFields, channelWeight_choiceFields, if_neg fun hc => h3 hc.1, if_neg fun hc => h3 hc.1]
    rfl

end LegalChoice

/-- What a step of the canonicalisation keeps: the choice is legal, of the same mode and partition, and stands for the
same pixels (spec R297). -/
structure SamePixels (c d : Choice) : Prop where
  legal : LegalChoice d
  mode_eq : d.mode = c.mode
  part_eq : d.part = c.part
  pixels_eq : choicePixels d = choicePixels c

/-- Choices of one rotation with equal channels stand for equal pixels. -/
theorem choicePixels_congr {c d : Choice}
    (h : ∀ i < 16, ∀ ch < 4, bc7Mix (choiceFields d) i ch = bc7Mix (choiceFields c) i ch) :
    choicePixels d = choicePixels c :=
  List.map_congr_left fun i hi => bc7Pixel_congr rfl (h i (List.mem_range.mp hi))

/-- One step after another keeps what both keep. -/
theorem SamePixels.trans {c d e : Choice} (h : SamePixels c d) (h' : SamePixels d e) : SamePixels c e :=
  ⟨h'.legal, h'.mode_eq.trans h.mode_eq, h'.part_eq.trans h.part_eq, h'.pixels_eq.trans h.pixels_eq⟩

/-- Canonicalising a subset keeps the pixels (spec R297). -/
theorem LegalChoice.canonSubset {c : Choice} (h : LegalChoice c) {s : Nat} (hs : s < (bc7Mode c.mode).ns) :
    SamePixels c (canonSubset c s) := by
  rw [canonSubset_eq]
  split
  · exact ⟨h.flipChoice s, rfl, rfl, choicePixels_congr fun i hi ch hch => h.bc7Mix_flipChoice hs hi hch⟩
  · exact ⟨h, rfl, rfl, rfl⟩

/-- Canonicalising alpha keeps the pixels (spec R297). -/
theorem LegalChoice.canonAlpha {c : Choice} (h : LegalChoice c) : SamePixels c (canonAlpha c) := by
  rw [canonAlpha_eq]
  split
  · next h5 =>
    exact ⟨h.flipAlpha h5.1, rfl, rfl, choicePixels_congr fun i hi ch hch => h.bc7Mix_flipAlpha h5.1 hi hch⟩
  · exact ⟨h, rfl, rfl, rfl⟩

/-- The anchor of a subset is a pixel of that subset (spec R117, R118). -/
theorem subset_anchor {ns part s : Nat} (hns : ns ∈ [1, 2, 3]) (hpart : part < 64) (hs : s < ns) :
    anchor ns part s < 16 ∧ subset ns part (anchor ns part s) = s := by
  obtain ⟨hlt2, hlt3a, hlt3b⟩ := anchor_lt part hpart
  obtain ⟨h2, h3a, h3b⟩ := part_anchor part hpart
  obtain ⟨hz2, hz3⟩ := part_pixel_zero part hpart
  have hzero : ∀ n, anchor n part 0 < 16 := fun _ => by simp [anchor]
  simp only [List.mem_cons, List.not_mem_nil, or_false] at hns
  rcases hns with rfl | rfl | rfl
  · obtain rfl : s = 0 := by omega
    exact ⟨hzero 1, rfl⟩
  · interval_cases s
    · exact ⟨hzero 2, hz2⟩
    · exact ⟨hlt2, h2⟩
  · interval_cases s
    · exact ⟨hzero 3, hz3⟩
    · exact ⟨hlt3a, h3a⟩
    · exact ⟨hlt3b, h3b⟩

/-- The anchor selector of subset `s` has its top bit clear (spec R149). -/
def AnchorClear (c : Choice) (s : Nat) : Prop :=
  c.sel1.getD (anchor (bc7Mode c.mode).ns c.part s) 0 < 2 ^ ((bc7Mode c.mode).ib - 1)

/-- Canonicalising a subset clears its anchor selector and no other anchor's (spec R297). -/
theorem LegalChoice.anchorClear_canonSubset {c : Choice} (h : LegalChoice c) {s k : Nat}
    (hs : s < (bc7Mode c.mode).ns) (hk : k < (bc7Mode c.mode).ns) (hclear : k = s ∨ AnchorClear c k) :
    AnchorClear (Machine.canonSubset c s) k := by
  obtain ⟨hanchor, hsub⟩ := subset_anchor h.ns_mem h.part_lt hk
  rw [canonSubset_eq]
  split
  · next htop =>
    have hpow : 2 ^ (bc7Mode c.mode).ib = 2 * 2 ^ ((bc7Mode c.mode).ib - 1) := by
      rw [← Nat.pow_succ', Nat.succ_eq_add_one, Nat.sub_add_cancel (bc7Mode_ib_ns _ h.mode_lt).1]
    have hpos := Nat.two_pow_pos ((bc7Mode c.mode).ib - 1)
    change (flipSubset (bc7Mode c.mode) c.part s c.sel1).getD (anchor (bc7Mode c.mode).ns c.part k) 0 < _
    rw [getD_flipSubset _ _ _ _ hanchor, hsub]
    split
    · next hks =>
      rw [hks]
      change _ < 2 ^ ((bc7Mode c.mode).ib - 1)
      omega
    · next hks => exact hclear.resolve_left hks
  · next htop =>
    rcases hclear with rfl | hclear
    · exact Nat.lt_of_not_le htop
    · exact hclear

/-- Canonicalising the first subsets one after another (spec R297). -/
theorem LegalChoice.canonSubsets {c : Choice} (h : LegalChoice c) {n : Nat} (hn : n ≤ (bc7Mode c.mode).ns) :
    SamePixels c ((List.range n).foldl Machine.canonSubset c) ∧
      ∀ s < n, AnchorClear ((List.range n).foldl Machine.canonSubset c) s := by
  induction n with
  | zero => exact ⟨⟨h, rfl, rfl, rfl⟩, fun s hs => absurd hs (Nat.not_lt_zero s)⟩
  | succ n ih =>
    obtain ⟨hsame, hclear⟩ := ih (Nat.le_of_succ_le hn)
    rw [List.range_succ, List.foldl_append, List.foldl_cons, List.foldl_nil]
    generalize (List.range n).foldl Machine.canonSubset c = d at hsame hclear ⊢
    have hnd : n < (bc7Mode d.mode).ns := by rw [hsame.mode_eq]; exact hn
    refine ⟨hsame.trans (hsame.legal.canonSubset hnd), fun s hs => ?_⟩
    refine hsame.legal.anchorClear_canonSubset hnd (by omega) ?_
    rcases Nat.lt_succ_iff_lt_or_eq.mp hs with hlt | heq
    · exact .inr (hclear s hlt)
    · exact .inl heq

/-- Canonicalisation keeps the pixels (spec R297). -/
theorem LegalChoice.canonicalise {c : Choice} (h : LegalChoice c) : SamePixels c (canonicalise c) := by
  obtain ⟨hsame, -⟩ := h.canonSubsets le_rfl
  exact hsame.trans hsame.legal.canonAlpha

/-- A choice whose anchor selectors are clear, subset by subset, keeps them when alpha is canonicalised (spec R297). -/
theorem LegalChoice.anchorsClear_canonAlpha {c : Choice} (h : LegalChoice c)
    (hclear : ∀ s < (bc7Mode c.mode).ns, AnchorClear c s) : AnchorsClear (Machine.canonAlpha c) := by
  have hprimary : ∀ i < 16, isAnchor (bc7Mode c.mode).ns c.part i = true →
      c.sel1.getD i 0 < 2 ^ ((bc7Mode c.mode).ib - 1) := fun i hi hanchor => by
    have hs := hclear _ (subset_lt h.ns_mem h.part_lt hi)
    rwa [AnchorClear, ← beq_iff_eq.mp hanchor] at hs
  have hmode5 : (bc7Mode c.mode).ib2 ≠ 0 → c.mode = 5 := fun hib2 => by_contra fun h5 => hib2 (h.ib2_eq_zero h5)
  rw [canonAlpha_eq]
  split
  · next htop =>
    obtain ⟨h5, htop⟩ := htop
    refine ⟨hprimary, fun _ => ?_⟩
    have hlen : 0 < c.sel2.length := by rw [h.sel2_length, h5]; decide
    have hsel : (Machine.flipAlpha c).sel2.getD 0 0 = 3 - c.sel2.getD 0 0 := by simp [Machine.flipAlpha, hlen]
    have hib2 : (bc7Mode (Machine.flipAlpha c).mode).ib2 = 2 := by change (bc7Mode c.mode).ib2 = 2; rw [h5]; rfl
    rw [hsel, hib2]
    omega
  · next htop =>
    refine ⟨hprimary, fun hib2 => ?_⟩
    have h5 := hmode5 hib2
    have hlow : ¬c.sel2.getD 0 0 ≥ 2 := fun hge => htop ⟨h5, hge⟩
    rw [h5]
    exact Nat.lt_of_not_le hlow

/-- After canonicalisation the anchor selectors are clear (spec R297). -/
theorem LegalChoice.anchorsClear_canonicalise {c : Choice} (h : LegalChoice c) :
    AnchorsClear (Machine.canonicalise c) := by
  obtain ⟨hsame, hclear⟩ := h.canonSubsets le_rfl
  exact hsame.legal.anchorsClear_canonAlpha fun s hs => hclear s (by rwa [hsame.mode_eq] at hs)

end Sys2Proof.Machine
end

section
/-! SUPPORT. Packing (R298) undone by decoding (R152): the fields of the packed block are the values of the choice. -/

namespace Sys2Proof.Machine

/-- Values that fit their field widths, one by one (spec R147, R298). -/
def FitWidths : List Nat → List Nat → Prop := List.Forall₂ fun v w => v < 2 ^ w

/-- Groups of fields fit when each group does. -/
theorem FitWidths.append {vs ws vs' ws' : List Nat} (h : FitWidths vs ws) (h' : FitWidths vs' ws') :
    FitWidths (vs ++ vs') (ws ++ ws') :=
  List.rel_append h h'

/-- Fields given by their number fit when each does. -/
theorem fitWidths_map_range {n : Nat} {f g : Nat → Nat} (h : ∀ i < n, f i < 2 ^ g i) :
    FitWidths ((List.range n).map f) ((List.range n).map g) := by
  rw [FitWidths, List.forall₂_map_left_iff, List.forall₂_map_right_iff, List.forall₂_same]
  exact fun i hi => h i (List.mem_range.mp hi)

/-- A constant list by its number. -/
theorem replicate_eq_map_range (n w : Nat) : List.replicate n w = (List.range n).map fun _ => w := by
  simp

/-- A list by its entries. -/
theorem map_range_getD {α : Type} {xs : List α} {n : Nat} (hlen : xs.length = n) (d : α) :
    ((List.range n).map fun i => xs.getD i d) = xs := by
  subst hlen
  refine List.ext_getElem (by simp) fun i hi hi' => ?_
  simp [hi']

/-- Splitting the block packed from fitting values gives the values back (spec R147, R298). -/
theorem splitFields_ofNat_packFields {vs ws : List Nat} (hfit : FitWidths vs ws) (hsum : ws.sum ≤ 128) :
    splitFields ws (BitVec.ofNat 128 (packFields (vs.zip ws))).toNat = vs := by
  obtain ⟨hlen, hmem⟩ := List.forall₂_iff_zip.mp hfit
  have hsnd : (vs.zip ws).map Prod.snd = ws := List.map_snd_zip hlen.ge
  have hfst : (vs.zip ws).map Prod.fst = vs := List.map_fst_zip hlen.le
  have hlt : packFields (vs.zip ws) < 2 ^ 128 := by
    have hpack := packFields_lt (vs.zip ws)
    rw [hsnd] at hpack
    exact hpack.trans_le (Nat.pow_le_pow_right (by decide) hsum)
  have hsplit := splitFields_packFields (vs.zip ws) fun f hf => hmem hf
  rw [hsnd, hfst] at hsplit
  rwa [BitVec.toNat_ofNat, Nat.mod_eq_of_lt hlt]

/-- A group cut out of a list behind the entries before it (spec R147). -/
theorem take_drop_of_prefix {all before group : List Nat} (hall : before ++ group <+: all) {n k : Nat}
    (hn : before.length = n) (hk : group.length = k) : (all.drop n).take k = group := by
  obtain ⟨rest, rfl⟩ := hall
  subst hn hk
  rw [List.append_assoc, List.drop_left, List.take_left]

/-- The values of channel `ch` of the endpoints of a choice (spec R298). -/
def channelValues (c : Choice) (ch : Nat) : List Nat :=
  (List.range (2 * (bc7Mode c.mode).ns)).map fun e => chan (c.q.getD e []) ch

/-- The values of the first `n` channels, channel by channel (spec R147, R298). -/
def endpointValues (c : Choice) (n : Nat) : List Nat := (List.range n).flatMap (channelValues c)

/-- The widths of the first `n` channels (spec R147). -/
def endpointWidths (mode n : Nat) : List Nat :=
  (List.range n).flatMap fun ch => List.replicate (2 * (bc7Mode mode).ns) (componentBits (bc7Mode mode) ch)

/-- Channel `n` follows the channels before it (spec R147). -/
theorem endpointValues_succ (c : Choice) (n : Nat) :
    endpointValues c (n + 1) = endpointValues c n ++ channelValues c n := by
  simp [endpointValues, List.range_succ]

/-- The widths of channel `n` follow those of the channels before it (spec R147). -/
theorem endpointWidths_succ (mode n : Nat) : endpointWidths mode (n + 1) = endpointWidths mode n ++
    List.replicate (2 * (bc7Mode mode).ns) (componentBits (bc7Mode mode) n) := by
  simp [endpointWidths, List.range_succ]

/-- The number of values of the first `n` channels (spec R147). -/
theorem length_endpointValues (c : Choice) (n : Nat) :
    (endpointValues c n).length = n * (2 * (bc7Mode c.mode).ns) := by
  simp [endpointValues, channelValues]

/-- The first channels stand in front of the others (spec R147). -/
theorem endpointValues_prefix (c : Choice) {n k : Nat} (h : n ≤ k) : endpointValues c n <+: endpointValues c k := by
  induction k, h using Nat.le_induction with
  | base => exact List.prefix_rfl
  | succ k _ ih => exact endpointValues_succ c k ▸ ih.trans (List.prefix_append _ _)

/-- The values of a choice by the groups of R147, for a choice whose lists have their lengths (spec R298). -/
theorem choiceValues_eq {c : Choice} (h : LegalChoice c) : choiceValues c =
    [2 ^ c.mode, c.part, 0, 0] ++ endpointValues c 4 ++ c.pb ++ c.sel1 ++
      (List.range 16).map fun i => c.sel2.getD i 0 := by
  have hpb := map_range_getD h.pb_length 0
  have hsel1 := map_range_getD h.sel1_length 0
  simp only [choiceValues, endpointValues_succ, channelValues, hpb, hsel1, List.append_assoc]
  rfl

/-- The widths of a block by the same groups (spec R147). -/
theorem bc7Widths_groups (mode part : Nat) : bc7Widths mode part =
    bc7LeadWidths mode ++ endpointWidths mode 4 ++ List.replicate (pbitCount (bc7Mode mode)) 1 ++
      shortWidths (isAnchor (bc7Mode mode).ns part) (bc7Mode mode).ib ++ shortWidths (· == 0) (bc7Mode mode).ib2 := by
  have hsix : 6 * (bc7Mode mode).ns = 2 * (bc7Mode mode).ns + 2 * (bc7Mode mode).ns + 2 * (bc7Mode mode).ns := by ring
  have hends : bc7ColourWidths mode ++ bc7AlphaWidths mode = endpointWidths mode 4 := by
    rw [bc7ColourWidths, bc7AlphaWidths, hsix, ← List.replicate_append_replicate, ← List.replicate_append_replicate]
    simp only [endpointWidths_succ, List.append_assoc]
    rfl
  rw [bc7Widths_eq, bc7HeadWidths_eq, ← hends]
  simp only [List.append_assoc]

namespace LegalChoice

variable {c : Choice} (h : LegalChoice c)
include h

/-- The components of the endpoints fit their stored bits (spec R292 (c)). -/
theorem endpointValues_fit {n : Nat} (hn : n ≤ 4) : FitWidths (endpointValues c n) (endpointWidths c.mode n) := by
  induction n with
  | zero => exact .nil
  | succ n ih =>
    have hchannel : FitWidths (channelValues c n)
        (List.replicate (2 * (bc7Mode c.mode).ns) (componentBits (bc7Mode c.mode) n)) := by
      rw [replicate_eq_map_range]
      exact fitWidths_map_range fun e _ => h.componentsFit_getD e n hn
    rw [endpointValues_succ, endpointWidths_succ]
    exact (ih (Nat.le_of_succ_le hn)).append hchannel

/-- The partition of a legal choice fits its field (spec R292 (b), R114). -/
theorem part_fits : c.part < 2 ^ (bc7Mode c.mode).pb := by
  have hpb : ∀ mode ∈ [1, 5, 6, 7], (bc7Mode mode).pb = 0 ∨ (bc7Mode mode).pb = 6 := by decide
  rcases hpb _ h.mode_mem with hzero | hsix
  · rw [h.part_eq hzero, hzero]
    decide
  · rw [hsix]
    exact h.part_lt

/-- The values of a legal canonical choice fit the fields of its block (spec R298). -/
theorem choiceValues_fit (hclear : AnchorsClear c) : FitWidths (choiceValues c) (bc7Widths c.mode c.part) := by
  have hmode : 2 ^ c.mode < 2 ^ (c.mode + 1) := Nat.pow_lt_pow_right (by decide) (Nat.lt_succ_self _)
  have hlead : FitWidths [2 ^ c.mode, c.part, 0, 0] (bc7LeadWidths c.mode) :=
    .cons hmode (.cons h.part_fits (.cons (Nat.two_pow_pos _) (.cons (Nat.two_pow_pos _) .nil)))
  have hpb : FitWidths c.pb (List.replicate (pbitCount (bc7Mode c.mode)) 1) := by
    rw [← map_range_getD h.pb_length 0, replicate_eq_map_range]
    exact fitWidths_map_range fun j _ => getD_of_forall_mem h.pb_fits (by decide) j
  have hsel1 : FitWidths c.sel1 (shortWidths (isAnchor (bc7Mode c.mode).ns c.part) (bc7Mode c.mode).ib) := by
    rw [← map_range_getD h.sel1_length 0]
    refine fitWidths_map_range fun i hi => ?_
    split
    · next hanchor => exact hclear.1 i hi hanchor
    · exact h.sel1_getD_lt i
  have hsel2 : FitWidths ((List.range 16).map fun i => c.sel2.getD i 0)
      (shortWidths (· == 0) (bc7Mode c.mode).ib2) := by
    refine fitWidths_map_range fun i _ => ?_
    have hfit := h.sel2_getD_lt i
    split
    · next hzero =>
      obtain rfl := beq_iff_eq.mp hzero
      by_cases hib2 : (bc7Mode c.mode).ib2 = 0
      · simpa [hib2] using hfit
      · exact hclear.2 hib2
    · exact hfit
  rw [choiceValues_eq h, bc7Widths_groups]
  exact (((hlead.append (h.endpointValues_fit le_rfl)).append hpb).append hsel1).append hsel2

/-- The values of a channel stand in its group (spec R147). -/
theorem getD_choiceValues_channel {e ch : Nat} (he : e < 2 * (bc7Mode c.mode).ns) (hch : ch < 4) :
    (choiceValues c).getD (4 + ch * (2 * (bc7Mode c.mode).ns) + e) 0 = chan (c.q.getD e []) ch := by
  have hprefix : ([2 ^ c.mode, c.part, 0, 0] ++ endpointValues c ch) ++ channelValues c ch <+: choiceValues c := by
    rw [choiceValues_eq h, List.append_assoc, ← endpointValues_succ]
    simp only [List.append_assoc, List.prefix_append_right_inj]
    exact (endpointValues_prefix c hch).trans (List.prefix_append _ _)
  have hgroup := take_drop_of_prefix hprefix
    (show _ = 4 + ch * (2 * (bc7Mode c.mode).ns) by rw [List.length_append, length_endpointValues]; rfl)
    (show _ = 2 * (bc7Mode c.mode).ns by simp [channelValues])
  rw [← getD_take_drop _ _ he, hgroup]
  exact getD_map_range _ (List.mem_range.mpr he)

variable (hclear : AnchorsClear c)
include hclear

/-- Splitting the packed block gives the values of the choice back (spec R147, R298). -/
theorem splitFields_packChoice : splitFields (bc7Widths c.mode c.part) (packChoice c).toNat = choiceValues c :=
  splitFields_ofNat_packFields (h.choiceValues_fit hclear) (sum_bc7Widths h.mode_lt h.part_lt).le

/-- The packed block has the mode of the choice (spec R146, R298). -/
theorem bc7ModeOf_packChoice : bc7ModeOf (packChoice c) = c.mode := by
  have hfirst : getField (packChoice c) 0 (c.mode + 1) = 2 ^ c.mode := by
    have hget := getD_splitFields (bc7Widths c.mode c.part) (packChoice c).toNat 0
    rw [h.splitFields_packChoice hclear] at hget
    exact hget.symm
  have hbit : ∀ k ≤ c.mode, (packChoice c).getLsbD k = decide (c.mode = k) := fun k hk => by
    have htest := getField_testBit (packChoice c) 0 (c.mode + 1) k
    rw [hfirst, Nat.testBit_two_pow] at htest
    simpa [Nat.lt_succ_of_le hk] using htest.symm
  exact bc7ModeOf_eq h.mode_lt (by simp [hbit]) fun k hk => by simp [hbit k hk.le, hk.ne']

/-- The packed block has the partition of the choice (spec R147, R298). -/
theorem bc7Part_packChoice : bc7Part c.mode (packChoice c) = c.part := by
  have hget := getD_splitFields (bc7Widths c.mode c.part) (packChoice c).toNat 1
  rw [h.splitFields_packChoice hclear] at hget
  simpa [choiceValues, bc7Widths, bc7HeadWidths, bc7Part, getField, field] using hget.symm

/-- The fields of the packed block are those of the choice, sixteen zeros standing for selectors the mode lacks (spec
R147, R298). -/
theorem bc7Fields_packChoice : bc7Fields c.mode (packChoice c) =
    { choiceFields c with sel2 := (List.range 16).map fun i => c.sel2.getD i 0 } := by
  have hends : (endpointValues c 4).length = 8 * (bc7Mode c.mode).ns := by rw [length_endpointValues]; ring
  have hlead : [2 ^ c.mode, c.part, 0, 0].length = 4 := rfl
  have hvalues := choiceValues_eq h
  have hq : ((List.range (2 * (bc7Mode c.mode).ns)).map fun e => [(choiceValues c).getD (4 + e) 0,
      (choiceValues c).getD (4 + 2 * (bc7Mode c.mode).ns + e) 0,
      (choiceValues c).getD (4 + 4 * (bc7Mode c.mode).ns + e) 0,
      (choiceValues c).getD (4 + 6 * (bc7Mode c.mode).ns + e) 0]) = c.q := by
    refine Eq.trans (List.map_congr_left fun e he => ?_) (map_range_getD h.q_length [])
    have he' := List.mem_range.mp he
    have hchannel : ∀ ch < 4, ∀ k, k = 4 + ch * (2 * (bc7Mode c.mode).ns) + e →
        (choiceValues c).getD k 0 = chan (c.q.getD e []) ch := fun ch hch k hk =>
      hk ▸ h.getD_choiceValues_channel he' hch
    rw [hchannel 0 (by decide) _ (by omega), hchannel 1 (by decide) _ (by omega), hchannel 2 (by decide) _ (by omega),
      hchannel 3 (by decide) _ (by omega)]
    have hmem : c.q.getD e [] ∈ c.q := by
      rw [List.getD_eq_getElem _ _ (h.q_length ▸ he')]
      exact List.getElem_mem _
    exact map_range_getD (h.q_fits _ hmem).1 0
  have hpb : ((choiceValues c).drop (4 + 8 * (bc7Mode c.mode).ns)).take (pbitCount (bc7Mode c.mode)) = c.pb :=
    take_drop_of_prefix (before := [2 ^ c.mode, c.part, 0, 0] ++ endpointValues c 4)
      (by rw [hvalues]; simp only [List.append_assoc, List.prefix_append_right_inj, List.prefix_append])
      (by rw [List.length_append, hends, hlead]) h.pb_length
  have hsel1 : ((choiceValues c).drop (4 + 8 * (bc7Mode c.mode).ns + pbitCount (bc7Mode c.mode))).take 16 = c.sel1 :=
    take_drop_of_prefix (before := [2 ^ c.mode, c.part, 0, 0] ++ endpointValues c 4 ++ c.pb)
      (by rw [hvalues]; simp only [List.append_assoc, List.prefix_append_right_inj, List.prefix_append])
      (by rw [List.length_append, List.length_append, hends, hlead, h.pb_length]) h.sel1_length
  have hsel2 : ((choiceValues c).drop (4 + 8 * (bc7Mode c.mode).ns + pbitCount (bc7Mode c.mode) + 16)).take 16 =
      (List.range 16).map fun i => c.sel2.getD i 0 :=
    take_drop_of_prefix (before := [2 ^ c.mode, c.part, 0, 0] ++ endpointValues c 4 ++ c.pb ++ c.sel1)
      (by rw [hvalues])
      (by rw [List.length_append, List.length_append, List.length_append, hends, hlead, h.pb_length, h.sel1_length])
      (by simp)
  simp only [bc7Fields, h.bc7Part_packChoice hclear, h.splitFields_packChoice hclear, hq, hpb, hsel1, hsel2]
  simp [choiceFields, choiceValues]

/-- The packed block of a legal canonical choice decodes to the pixels the choice stands for (spec R206, R298). -/
theorem bc7Decode_packChoice : bc7Decode (packChoice c) = choicePixels c := by
  rw [bc7Decode_of_mode h.mode_lt (h.bc7ModeOf_packChoice hclear), h.bc7Fields_packChoice hclear]
  refine List.map_congr_left fun i hi => bc7Pixel_congr rfl fun ch _ => ?_
  have hweight : channelWeight { choiceFields c with sel2 := (List.range 16).map fun i => c.sel2.getD i 0 } i ch =
      channelWeight (choiceFields c) i ch := by
    unfold channelWeight bc7Weights
    simp only [getD_map_range _ hi]
    rfl
  exact bc7Mix_of_eq rfl rfl (fun _ => rfl) hweight

end LegalChoice

end Sys2Proof.Machine
end

section
/-! SUPPORT. The reference search (R295 to R307) makes legal choices, whatever the tile (R292, R308). -/

namespace Sys2Proof.Machine

/-- A channel of a colour whose components are below a bound. -/
theorem chan_lt_of_forall {x : Colour} {b : Nat} (hx : ∀ v ∈ x, v < b) (hb : 0 < b) (ch : Nat) : chan x ch < b :=
  getD_of_forall_mem hx hb ch

/-- A colour has no channel past its components. -/
theorem chan_of_length_le {x : Colour} {ch : Nat} (h : x.length ≤ ch) : chan x ch = 0 :=
  List.getD_eq_default _ _ h

/-- Degenerate-endpoint correction keeps fields in their width (spec R302). -/
theorem nudge_lt {n qlo qhi : Nat} (hn : 0 < n) (hlo : qlo < 2 ^ n) (hhi : qhi < 2 ^ n) (lo hi : Nat) :
    (nudge n qlo qhi lo hi).1 < 2 ^ n ∧ (nudge n qlo qhi lo hi).2 < 2 ^ n := by
  have htwo : 2 ^ 1 ≤ 2 ^ n := Nat.pow_le_pow_right (by decide) hn
  unfold nudge
  split_ifs <;> constructor <;> dsimp only <;> omega

/-- The number of p-bits of a subset (spec R301). -/
def PbitKind.count : PbitKind → Nat
  | .none => 0
  | .shared => 1
  | .perEndpoint => 2

/-- Endpoints of a subset that fit fields of `n` bits, with the p-bits of their kind (spec R301). -/
structure EndsFit (count n : Nat) (e : Ends) : Prop where
  lo_lt : ∀ ch, chan e.lo ch < 2 ^ n
  hi_lt : ∀ ch, chan e.hi ch < 2 ^ n
  pb_length : e.pb.length = count
  pb_lt : ∀ p ∈ e.pb, p < 2

/-- Quantised corners fit their fields (spec R301). -/
theorem quantCorners_fit (kind : PbitKind) (n : Nat) (lo hi : Colour) :
    EndsFit kind.count n (quantCorners kind n lo hi) := by
  have hmap : ∀ (g : Nat → Nat) (x : Colour) (ch : Nat), (∀ v, g v < 2 ^ n) → chan (x.map g) ch < 2 ^ n :=
    fun g x ch hg => chan_lt_of_forall (List.forall_mem_map.mpr fun v _ => hg v) (Nat.two_pow_pos n) ch
  have hbit : ∀ f, leastBelow 2 f < 2 := fun f => leastBelow_lt f (by decide)
  cases kind with
  | none => exact ⟨fun ch => hmap _ _ ch fun v => quant_lt n v, fun ch => hmap _ _ ch fun v => quant_lt n v, rfl,
      fun _ hp => absurd hp List.not_mem_nil⟩
  | shared => exact ⟨fun ch => hmap _ _ ch fun v => quantP_lt n v _, fun ch => hmap _ _ ch fun v => quantP_lt n v _,
      rfl, List.forall_mem_singleton.mpr (hbit _)⟩
  | perEndpoint => exact ⟨fun ch => hmap _ _ ch fun v => quantP_lt n v _,
      fun ch => hmap _ _ ch fun v => quantP_lt n v _,
      rfl, List.forall_mem_cons.mpr ⟨hbit _, List.forall_mem_singleton.mpr (hbit _)⟩⟩

/-- Corrected endpoints fit their fields (spec R302). -/
theorem nudgeEnds_fit {count n : Nat} {e : Ends} (hn : 0 < n) (he : EndsFit count n e) (lo hi : Colour) :
    EndsFit count n (nudgeEnds n lo hi e) where
  lo_lt := chan_lt_of_forall
    (List.forall_mem_map.mpr fun ch _ => (nudge_lt hn (he.lo_lt ch) (he.hi_lt ch) _ _).1) (Nat.two_pow_pos n)
  hi_lt := chan_lt_of_forall
    (List.forall_mem_map.mpr fun ch _ => (nudge_lt hn (he.lo_lt ch) (he.hi_lt ch) _ _).2) (Nat.two_pow_pos n)
  pb_length := he.pb_length
  pb_lt := he.pb_lt

/-- What a trial needs of the fit of a subset: components within the stored bits of a mode, the p-bits of the subset,
and selectors within `ib` bits (spec R292, R303). -/
structure SubsetFits (m : Bc7ModeRow) (count : Nat) (f : SubsetFit) : Prop where
  lo_fits : ComponentsFit m f.ends.lo
  hi_fits : ComponentsFit m f.ends.hi
  pb_length : f.ends.pb.length = count
  pb_lt : ∀ p ∈ f.ends.pb, p < 2
  sel_lt : ∀ j ∈ f.sel, j < 2 ^ m.ib

/-- Components of `n` bits in the first `nch` channels fit a mode that stores `n` bits there. -/
theorem componentsFit_of_lt {m : Bc7ModeRow} {n nch : Nat} {x : Colour} (hbits : ∀ ch < nch, componentBits m ch = n)
    (hlen : x.length ≤ nch) (hx : ∀ ch, chan x ch < 2 ^ n) : ComponentsFit m x := fun ch _ => by
  rcases lt_or_ge ch nch with hch | hch
  · exact hbits ch hch ▸ hx ch
  · exact chan_of_length_le (hlen.trans hch) ▸ Nat.two_pow_pos _

/-- A palette has a colour for every selector (spec R303, R113). -/
theorem length_subsetPalette {ib : Nat} (hib : ib ∈ [2, 3, 4]) (kind : PbitKind) (n : Nat) (e : Ends) :
    (subsetPalette kind n ib e).length = 2 ^ ib := by
  rw [subsetPalette, List.length_map]
  exact (weight_symm ib hib).1

/-- The selector of a pixel names a colour of the palette (spec R303). -/
theorem paletteSel_lt {pal : List Colour} (h : 0 < pal.length) (c : Colour) : paletteSel pal c < pal.length :=
  leastBelow_lt _ h

/-- A subset fitted by its bounding box fits a mode that stores `n` bits of each of its channels (spec R300 to R303). -/
theorem boxFit_fits {m : Bc7ModeRow} (kind : PbitKind) {n nch : Nat} (hn : 0 < n)
    (hbits : ∀ ch < nch, componentBits m ch = n) (hib : m.ib ∈ [2, 3, 4]) (x : List Colour) :
    SubsetFits m kind.count (boxFit kind n nch m.ib x) := by
  have hends : EndsFit kind.count n (boxEnds kind n nch x) := nudgeEnds_fit hn (quantCorners_fit kind n _ _) _ _
  have hpal : ∀ e, (subsetPalette kind n m.ib e).length = 2 ^ m.ib := length_subsetPalette hib kind n
  refine ⟨componentsFit_of_lt hbits ?_ hends.lo_lt, componentsFit_of_lt hbits ?_ hends.hi_lt, hends.pb_length,
    hends.pb_lt, ?_⟩
  · simp [boxFit, boxEnds, nudgeEnds, boxLo]
  · simp [boxFit, boxEnds, nudgeEnds, boxLo]
  · refine List.forall_mem_map.mpr fun c _ => ?_
    exact (paletteSel_lt (hpal _ ▸ Nat.two_pow_pos _) c).trans_eq (hpal _)

/-- The entries of the ready `OPT1` hold 6-bit fields (spec R121). -/
theorem opt1At_opt1Table_lt (c p : Nat) : (opt1At opt1Table c p).lo < 64 ∧ (opt1At opt1Table c p).hi < 64 := by
  refine getD_of_forall_mem (P := fun e : OptEntry => e.lo < 64 ∧ e.hi < 64) (fun e he => ?_) (by decide) _
  rw [opt1Table_eq, Vector.toList_ofFn, List.mem_ofFn] at he
  obtain ⟨k, rfl⟩ := he
  obtain ⟨hlo, hhi, -⟩ := optEntry_isLeastEntry 7 (weight 3 2) (k.val % 2) (k.val % 2) (k.val / 2)
  exact ⟨hlo, hhi⟩

/-- The entries of the ready `OPT7` hold 5-bit fields (spec R122). -/
theorem opt7At_opt7Table_lt (c hp lp : Nat) :
    (opt7At opt7Table c hp lp).lo < 32 ∧ (opt7At opt7Table c hp lp).hi < 32 := by
  refine getD_of_forall_mem (P := fun e : OptEntry => e.lo < 32 ∧ e.hi < 32) (fun e he => ?_) (by decide) _
  rw [opt7Table_eq, Vector.toList_ofFn, List.mem_ofFn] at he
  obtain ⟨k, rfl⟩ := he
  obtain ⟨hlo, hhi, -⟩ := optEntry_isLeastEntry 6 (weight 2 1) (k.val % 2) (k.val / 2 % 2) (k.val / 4)
  exact ⟨hlo, hhi⟩

/-- Table fields of `n` bits for each channel of a uniform subset, and one selector, fit a mode that stores `n` bits of
each (spec R295). -/
theorem uniform_fits {m : Bc7ModeRow} {n nch sel : Nat} {c : Colour} {lo hi : Nat → Nat} {pb : List Nat}
    (hbits : ∀ ch < nch, componentBits m ch = n) (hlen : c.length ≤ nch) (hlo : ∀ v, lo v < 2 ^ n)
    (hhi : ∀ v, hi v < 2 ^ n) (hpb : ∀ p ∈ pb, p < 2) (hsel : sel < 2 ^ m.ib) (x : List Colour) (err : Nat) :
    SubsetFits m pb.length ⟨⟨c.map lo, c.map hi, pb⟩, x.map fun _ => sel, err⟩ where
  lo_fits := componentsFit_of_lt hbits (by simpa using hlen)
    (chan_lt_of_forall (List.forall_mem_map.mpr fun v _ => hlo v) (Nat.two_pow_pos n))
  hi_fits := componentsFit_of_lt hbits (by simpa using hlen)
    (chan_lt_of_forall (List.forall_mem_map.mpr fun v _ => hhi v) (Nat.two_pow_pos n))
  pb_length := rfl
  pb_lt := hpb
  sel_lt := List.forall_mem_map.mpr fun _ _ => hsel

/-- The first colour of a subset has no more channels than all have. -/
theorem length_headD_le {x : List Colour} {nch : Nat} (hx : ∀ c ∈ x, c.length ≤ nch) : (x.headD []).length ≤ nch := by
  cases x with
  | nil => exact Nat.zero_le _
  | cons c x => exact hx c (by simp)

/-- A subset of mode 1 fits, uniform or not (spec R295, R305). -/
theorem fit1_fits {x : List Colour} (hx : ∀ c ∈ x, c.length ≤ 3) : SubsetFits (bc7Mode 1) 1 (fit1 opt1Table x) := by
  have hbits : ∀ ch < 3, componentBits (bc7Mode 1) ch = 6 := by decide
  unfold fit1
  split
  · exact uniform_fits hbits (length_headD_le hx) (fun v => (opt1At_opt1Table_lt v _).1)
      (fun v => (opt1At_opt1Table_lt v _).2) (List.forall_mem_singleton.mpr (leastBelow_lt _ (by decide))) (by decide)
      x _
  · exact boxFit_fits .shared (by decide) hbits (by decide) x

/-- A subset of mode 7 fits, uniform or not (spec R295, R307). -/
theorem fit7_fits {x : List Colour} (hx : ∀ c ∈ x, c.length ≤ 4) : SubsetFits (bc7Mode 7) 2 (fit7 opt7Table x) := by
  have hbits : ∀ ch < 4, componentBits (bc7Mode 7) ch = 5 := by decide
  have hpair : ∀ f : Nat × Nat → Nat, (leastBy f (0, 0) [(0, 0), (0, 1), (1, 0), (1, 1)]).1 < 2 ∧
      (leastBy f (0, 0) [(0, 0), (0, 1), (1, 0), (1, 1)]).2 < 2 := fun f => by
    have hall : ∀ lh ∈ [((0, 0) : Nat × Nat), (0, 1), (1, 0), (1, 1)], lh.1 < 2 ∧ lh.2 < 2 := by decide
    exact hall _ (leastBy_mem f (0, 0) (List.cons_ne_nil _ _))
  unfold fit7
  split
  · exact uniform_fits hbits (length_headD_le hx) (fun v => (opt7At_opt7Table_lt v _ _).1)
      (fun v => (opt7At_opt7Table_lt v _ _).2)
      (List.forall_mem_cons.mpr ⟨(hpair _).1, List.forall_mem_singleton.mpr (hpair _).2⟩) (by decide) x _
  · exact boxFit_fits .perEndpoint (by decide) hbits (by decide) x

/-- Endpoint records taken from fitting colours fit (spec R147). -/
theorem qOf_fits {m : Bc7ModeRow} {x : Colour} (hx : ComponentsFit m x) :
    (qOf x).length = 4 ∧ ComponentsFit m (qOf x) :=
  endpointFits_of_channels hx hx hx hx

/-- The choice of a two-subset mode with the given fits of its subsets (spec R305, R307). -/
def twoSubsetChoice (mode part : Nat) (f g : SubsetFit) : Choice :=
  { mode := mode, part := part, q := [qOf f.ends.lo, qOf f.ends.hi, qOf g.ends.lo, qOf g.ends.hi],
    pb := f.ends.pb ++ g.ends.pb,
    sel1 := (List.range 16).map fun i => (if part2 part i = 0 then f.sel else g.sel).getD (rankInSubset part i) 0,
    sel2 := [] }

/-- The choice of a two-subset mode is legal when both of its subsets fit (spec R305, R307). -/
theorem twoSubsetChoice_legal {mode part count : Nat} {f g : SubsetFit} (hmode : mode ∈ [1, 7]) (hpart : part < 64)
    (hcount : pbitCount (bc7Mode mode) = count + count) (hf : SubsetFits (bc7Mode mode) count f)
    (hg : SubsetFits (bc7Mode mode) count g) : LegalChoice (twoSubsetChoice mode part f g) := by
  have hfacts : ∀ mode ∈ [1, 7], mode ∈ [1, 5, 6, 7] ∧ (bc7Mode mode).pb ≠ 0 ∧ (bc7Mode mode).ns = 2 ∧
      (bc7Mode mode).ib2 = 0 := by decide
  obtain ⟨hmem, hpb, hns, hib2⟩ := hfacts mode hmode
  exact {
    mode_mem := hmem
    part_lt := hpart
    part_eq := fun hzero => absurd hzero hpb
    q_length := by rw [twoSubsetChoice, hns]; rfl
    q_fits := by
      simp only [twoSubsetChoice, List.forall_mem_cons, List.not_mem_nil, false_imp_iff, implies_true, and_true]
      exact ⟨qOf_fits hf.lo_fits, qOf_fits hf.hi_fits, qOf_fits hg.lo_fits, qOf_fits hg.hi_fits⟩
    pb_length := by rw [twoSubsetChoice, List.length_append, hf.pb_length, hg.pb_length, hcount]
    pb_fits := List.forall_mem_append.mpr ⟨hf.pb_lt, hg.pb_lt⟩
    sel1_length := by simp [twoSubsetChoice]
    sel1_fits := List.forall_mem_map.mpr fun i _ => by
      split
      · exact getD_of_forall_mem hf.sel_lt (Nat.two_pow_pos _) _
      · exact getD_of_forall_mem hg.sel_lt (Nat.two_pow_pos _) _
    sel2_length := by rw [twoSubsetChoice, hib2]; rfl
    sel2_fits := fun _ hj => absurd hj List.not_mem_nil }

/-- The trial of a two-subset mode makes a legal choice when every subset fits (spec R305, R307). -/
theorem twoSubsetTrial_legal {mode maxPart count : Nat} {fit : List Colour → SubsetFit} {p : List Colour}
    (hmode : mode ∈ [1, 7]) (hmax : 0 < maxPart) (hmax' : maxPart ≤ 64)
    (hcount : pbitCount (bc7Mode mode) = count + count)
    (hfit : ∀ part s, SubsetFits (bc7Mode mode) count (fit ((partPixels part s).map (pixelAt p)))) :
    LegalChoice (twoSubsetTrial mode maxPart fit p).2 :=
  twoSubsetChoice_legal hmode ((leastBelow_lt _ hmax).trans_le hmax') hcount (hfit _ 0) (hfit _ 1)

/-- The trial of mode 6 makes a legal choice (spec R304). -/
theorem trial6_legal {px : List Px} (hlen : px.length = 16) : LegalChoice (trial6 px).2 := by
  have hf : SubsetFits (bc7Mode 6) 2 (boxFit .perEndpoint 7 4 4 (px.map rgbaOf)) :=
    boxFit_fits .perEndpoint (by decide) (by decide) (by decide) _
  exact {
    mode_mem := (by decide : 6 ∈ [1, 5, 6, 7])
    part_lt := (by decide : 0 < 64)
    part_eq := fun _ => rfl
    q_length := rfl
    q_fits := List.forall_mem_cons.mpr ⟨qOf_fits hf.lo_fits, List.forall_mem_singleton.mpr (qOf_fits hf.hi_fits)⟩
    pb_length := hf.pb_length
    pb_fits := hf.pb_lt
    sel1_length := by simp [trial6, boxFit, hlen]
    sel1_fits := hf.sel_lt
    sel2_length := rfl
    sel2_fits := fun _ hj => absurd hj List.not_mem_nil }

/-- The least of values below a bound is below it. -/
theorem leastOf_lt {b : Nat} (hb : 0 < b) {vs : List Nat} (hvs : ∀ v ∈ vs, v < b) : leastOf vs < b := by
  cases vs with
  | nil => exact hb
  | cons v vs =>
    have hfold : ∀ (xs : List Nat) (a : Nat), a < b → (∀ v ∈ xs, v < b) → xs.foldl min a < b := fun xs => by
      induction xs with
      | nil => exact fun a ha _ => ha
      | cons x xs ih =>
        exact fun a ha hx => ih _ ((Nat.min_le_left _ _).trans_lt ha) (List.forall_mem_cons.mp hx).2
    exact hfold vs v (hvs v (by simp)) fun w hw => hvs w (by simp [hw])

/-- The greatest of values below a bound is below it. -/
theorem greatestOf_lt {b : Nat} (hb : 0 < b) {vs : List Nat} (hvs : ∀ v ∈ vs, v < b) : greatestOf vs < b := by
  have hfold : ∀ (xs : List Nat) (a : Nat), a < b → (∀ v ∈ xs, v < b) → xs.foldl max a < b := fun xs => by
    induction xs with
    | nil => exact fun a ha _ => ha
    | cons x xs ih =>
      exact fun a ha hx => ih _ (max_lt ha (List.forall_mem_cons.mp hx).1) (List.forall_mem_cons.mp hx).2
  exact hfold vs 0 hb hvs

/-- The trial of mode 5 makes a legal choice of a tile of channel values (spec R306). -/
theorem trial5_legal {px : List Px} (hlen : px.length = 16) (hpx : ∀ p ∈ px, p.a < 256) :
    LegalChoice (trial5 px).2 := by
  have hf : SubsetFits (bc7Mode 5) 0 (boxFit .none 7 3 2 (px.map rgbOf)) :=
    boxFit_fits .none (by decide) (by decide) (by decide) _
  have halpha : ∀ v ∈ px.map Px.a, v < 256 := List.forall_mem_map.mpr hpx
  have hq : ∀ (x : Colour) (a : Nat), ComponentsFit (bc7Mode 5) x → a < 256 →
      [chan x 0, chan x 1, chan x 2, a].length = 4 ∧ ComponentsFit (bc7Mode 5) [chan x 0, chan x 1, chan x 2, a] :=
    fun x a hx ha => endpointFits_of_channels (z := [0, 0, 0, a]) hx hx hx fun ch hch => by
      interval_cases ch
      exacts [Nat.two_pow_pos _, Nat.two_pow_pos _, Nat.two_pow_pos _, ha]
  exact {
    mode_mem := (by decide : 5 ∈ [1, 5, 6, 7])
    part_lt := (by decide : 0 < 64)
    part_eq := fun _ => rfl
    q_length := rfl
    q_fits := List.forall_mem_cons.mpr ⟨hq _ _ hf.lo_fits (leastOf_lt (by decide) halpha),
      List.forall_mem_singleton.mpr (hq _ _ hf.hi_fits (greatestOf_lt (by decide) halpha))⟩
    pb_length := rfl
    pb_fits := fun _ hp => absurd hp List.not_mem_nil
    sel1_length := by simp [trial5, boxFit, hlen]
    sel1_fits := hf.sel_lt
    sel2_length := by simp [trial5, hlen, bc7Mode]
    sel2_fits := List.forall_mem_map.mpr fun _ _ => leastBelow_lt _ (by decide) }

/-- The colours of the pixels of a subset have no more channels than those of the tile. -/
theorem length_subset_colour_le {p : List Colour} {nch : Nat} (hp : ∀ c ∈ p, c.length ≤ nch) (is : List Nat) :
    ∀ c ∈ is.map (pixelAt p), c.length ≤ nch :=
  List.forall_mem_map.mpr fun i _ => getD_of_forall_mem (P := fun c : Colour => c.length ≤ nch) hp (Nat.zero_le _) i

/-- What the search is handed: sixteen pixels of channel values, the ready tables, and a legal number of partitions
(spec R292, R26, R31). -/
structure LegalArgs (args : SearchArgs) : Prop where
  length_eq : args.pixels.length = 16
  alpha_lt : ∀ p ∈ args.pixels, p.a < 256
  opt1_eq : args.opt1 = opt1Table
  opt7_eq : args.opt7 = opt7Table
  maxPart_pos : 0 < args.maxPart
  maxPart_le : args.maxPart ≤ 64

/-- Every trial of the search makes a legal choice in an allowed mode (spec R291, R296). -/
theorem bc7Trials_legal {args : SearchArgs} (h : LegalArgs args) :
    ∀ t ∈ bc7Trials args, AllowedMode args.pixels t.2.2.mode ∧ LegalChoice t.2.2 := by
  have h6 := trial6_legal h.length_eq
  have h5 := trial5_legal h.length_eq h.alpha_lt
  have h1 : LegalChoice (trial1 args.opt1 args.maxPart args.pixels).2 :=
    twoSubsetTrial_legal (by decide) h.maxPart_pos h.maxPart_le (by decide : _ = 1 + 1) fun part s => by
      rw [h.opt1_eq]
      exact fit1_fits (length_subset_colour_le (List.forall_mem_map.mpr fun _ _ => Nat.le_refl 3) _)
  have h7 : LegalChoice (trial7 args.opt7 args.maxPart args.pixels).2 :=
    twoSubsetTrial_legal (by decide) h.maxPart_pos h.maxPart_le (by decide : _ = 2 + 2) fun part s => by
      rw [h.opt7_eq]
      exact fit7_fits (length_subset_colour_le (List.forall_mem_map.mpr fun _ _ => Nat.le_refl 4) _)
  unfold bc7Trials AllowedMode
  split
  · exact List.forall_mem_cons.mpr ⟨⟨.inl rfl, h6⟩, List.forall_mem_singleton.mpr ⟨.inr rfl, h1⟩⟩
  · exact List.forall_mem_cons.mpr ⟨⟨.inl rfl, h6⟩, List.forall_mem_cons.mpr ⟨⟨.inr (.inl rfl), h5⟩,
      List.forall_mem_singleton.mpr ⟨.inr (.inr rfl), h7⟩⟩⟩

/-- The reference search meets the contract (spec R292, R296). -/
theorem choiceContract_refBc7Search {args : SearchArgs} (h : LegalArgs args) :
    choiceContract args.pixels (refBc7Search args) = true :=
  (choiceContract_iff _ _).mpr (bc7Trials_legal h _ (leastBy_mem _ _ (List.cons_ne_nil _ _)))

/-- The search meets the contract, whichever one it is (spec R292, R13). -/
theorem choiceContract_bc7Search {args : SearchArgs} (h : LegalArgs args) (p : Params) :
    choiceContract args.pixels (bc7Search p args) = true := by
  have href := choiceContract_refBc7Search h
  unfold bc7Search
  split
  · exact href
  · rcases freeOr_cases (contract := choiceContract args.pixels) (Config.freeBc7Search args) (refBc7Search args) with
      heq | hfree
    · rw [heq]
      exact href
    · exact hfree

/-- `BC7_MAXPART` of a lane that holds only legal fields is 1 to 64 (spec R26). -/
theorem ctrlMaxPart_bounds {l : Lane} (h : LaneInv l) : 0 < ctrlMaxPart l.ctrl ∧ ctrlMaxPart l.ctrl ≤ 64 := by
  have hlegal := (legalCtrl_fields l.ctrl).2.2.2.2
  rw [h.2.1] at hlegal
  unfold legalMaxPart at hlegal
  split at hlegal <;> omega

/-- What `ENC.BC7` hands to the search is legal once the tables are ready (spec R299). -/
theorem searchArgs_legal {s : State} {l : Lane} (hl : LaneInv l) (hs : TablesInv s) (hready : s.bc7Ready = true) :
    LegalArgs (searchArgs s l) where
  length_eq := tilePixels_length l.tile
  alpha_lt := List.forall_mem_map.mpr fun i _ => (tilePx_inRange l.tile i).2.2.2
  opt1_eq := (hs hready).1
  opt7_eq := (hs hready).2
  maxPart_pos := (ctrlMaxPart_bounds hl).1
  maxPart_le := (ctrlMaxPart_bounds hl).2

end Sys2Proof.Machine
end

section
/-! SUPPORT. What `ENC.BC7` and the decoders do on a running lane. -/

namespace Sys2Proof.Machine

/-- `ENC.BC7` with the tables ready (spec R299). -/
theorem exec_encBc7_ready {s : State} {l : Lane} (h : Running s l) (hready : s.bc7Ready = true) :
    exec .encBc7 s = .next (putLane s (laneWithBlock l (encBc7 s.params (searchArgs s l)))) :=
  (runCommand_running h _).trans (by rw [if_pos hready])

/-- `DEC.BC7` on any running lane (spec R200, R205). -/
theorem exec_decBc7 {s : State} {l : Lane} (h : Running s l) :
    exec .decBc7 s = .next (putLane s (laneWithTile l (bc7Decode l.blk) 128#8)) :=
  runCommand_running h _

end Sys2Proof.Machine
end

section
/-! SUPPORT. What the BC7 decoder writes (R146 to R152), case by case: the reserved block, the component with its
p-bit, the weights under index selection, the bounds of the fields. -/

namespace Sys2Proof.Machine

/-- A byte is the field of its eight bits (spec R7). -/
theorem toNat_byteOf {n : Nat} (x : BitVec n) (k : Nat) : (byteOf x k).toNat = getField x (8 * k) 8 := by
  simp [byteOf, getField, Nat.shiftRight_eq_div_pow]

/-- A block whose first byte is 0 has the reserved mode (spec R146, R152). -/
theorem bc7ModeOf_reserved {b : Block} (h : byteOf b 0 = 0#8) : bc7ModeOf b = 8 := by
  have hzero : getField b 0 8 = 0 := by rw [← Nat.mul_zero 8, ← toNat_byteOf, h]; rfl
  rw [bc7ModeOf, hzero]
  rfl

/-- A pixel of the tile `DEC.BC7` writes for the reserved block (spec R152). -/
theorem tilePx_bc7Decode_reserved {b : Block} (hb : bc7ModeOf b = 8) {i : Nat} (hi : i < 16) :
    tilePx (tileOfPixels (bc7Decode b)) i = ⟨0, 0, 0, 0⟩ := by
  rw [bc7Decode_reserved hb]
  exact tilePx_tileOfPixels_range hi ⟨by decide, by decide, by decide, by decide⟩

/-- A pixel of the tile `DEC.BC7` writes for a block of an existing mode (spec R205, R152). -/
theorem tilePx_bc7Decode {b : Block} {mode : Nat} (hmode : mode < 8) (hb : bc7ModeOf b = mode) {i : Nat}
    (hi : i < 16) : tilePx (tileOfPixels (bc7Decode b)) i = bc7Pixel (bc7Fields mode b) i := by
  rw [bc7Decode_of_mode hmode hb]
  exact tilePx_tileOfPixels_range hi (bc7Pixel_bc7Fields_inRange b hmode hi)

/-- A component with its p-bit appended, if the mode has one, and widened (spec R148). -/
theorem reconstruct_endpointPbit (m : Bc7ModeRow) (pb : List Nat) (n e v : Nat) :
    reconstruct n (endpointPbit m pb e) v =
      if m.epb = 1 then expand (n + 1) (2 * v + pb.getD e 0)
      else if m.spb = 1 then expand (n + 1) (2 * v + pb.getD (e / 2) 0)
      else expand n v := by
  unfold endpointPbit
  split_ifs <;> rfl

/-- The weight of a channel: by the second selector for alpha, or for colour where `idxsel` exchanges the two (spec
R150). -/
theorem channelWeight_eq {f : Bc7Fields} (hisb : f.isb < 2) (i ch : Nat) : channelWeight f i ch =
    if (bc7Mode f.mode).ib2 = 0 ∨ f.isb = (if ch = 3 then 1 else 0) then weight (bc7Mode f.mode).ib (f.sel1.getD i 0)
    else weight (bc7Mode f.mode).ib2 (f.sel2.getD i 0) := by
  unfold channelWeight bc7Weights
  by_cases hib2 : (bc7Mode f.mode).ib2 = 0
  · simp [hib2]
  · rcases (by omega : f.isb = 0 ∨ f.isb = 1) with h | h <;> by_cases hch : ch = 3 <;> simp [hib2, h, hch]

/-- The rotation and the index selection of a block are within their fields; only mode 4 has an index selection, only
modes 4 and 5 a rotation (spec R114, R147). -/
theorem bc7Fields_rot_isb_bounds {mode : Nat} (hmode : mode < 8) (b : Block) :
    (bc7Fields mode b).rot < 4 ∧ (bc7Fields mode b).isb < 2 ∧ (mode ≠ 4 → (bc7Fields mode b).isb = 0) ∧
      (mode ≠ 4 → mode ≠ 5 → (bc7Fields mode b).rot = 0) := by
  have hwidths : ∀ mode < 8, (bc7Mode mode).rb ≤ 2 ∧ (bc7Mode mode).isb ≤ 1 ∧ (mode ≠ 4 → (bc7Mode mode).isb = 0) ∧
      (mode ≠ 4 → mode ≠ 5 → (bc7Mode mode).rb = 0) := by decide
  obtain ⟨hrb, hisb, hisb0, hrb0⟩ := hwidths mode hmode
  rw [bc7Fields_rot, bc7Fields_isb]
  refine ⟨(getField_lt _ _ _).trans_le (Nat.pow_le_pow_right (by decide) hrb),
    (getField_lt _ _ _).trans_le (Nat.pow_le_pow_right (by decide) hisb), fun h4 => ?_, fun h4 h5 => ?_⟩
  · rw [hisb0 h4]
    exact field_width_zero _ _
  · rw [hrb0 h4 h5]
    exact field_width_zero _ _

/-- The alpha of a pixel of a mode without alpha is 255 before the rotation (spec R148, R150). -/
theorem bc7Mix_alpha_absent {f : Bc7Fields} (hab : (bc7Mode f.mode).ab = 0) (i : Nat) : bc7Mix f i 3 = 255 := by
  have hend : ∀ e, chan (bc7Endpoint (bc7Mode f.mode) f.pb f.q e) 3 = 255 := fun e => if_pos hab
  have hw := channelWeight_le f i 3
  rw [bc7Mix, hend, hend, interp]
  omega

/-- The widths of a mode that the decoder uses, in the order `NS`, `CB`, `AB`, `EPB`, `SPB`, `IB`, `IB2` (spec R114). -/
def bc7DecodeRow (mode : Nat) : Nat × Nat × Nat × Nat × Nat × Nat × Nat :=
  let m := bc7Mode mode
  (m.ns, m.cb, m.ab, m.epb, m.spb, m.ib, m.ib2)

end Sys2Proof.Machine
end

section
/-! SUPPORT. The BC1 and BC4 palettes (R141, R143) and the pixels `DEC.BC1`, `DEC.BC3`, `DEC.BC4` and `DEC.BC5`
write. -/

namespace Sys2Proof.Machine

/-- A field of the low half stands at its own place in the block (spec R22). -/
theorem getField_lowHalf (b : Block) {o w : Nat} (h : o + w ≤ 64) : getField (lowHalf b) o w = getField b o w := by
  refine Nat.eq_of_testBit_eq fun k => ?_
  rw [getField_testBit, getField_testBit]
  by_cases hk : k < w
  · simp [lowHalf, hk, show o + k < 64 by omega]
  · simp [hk]

/-- A field of the high half stands 64 bits further up in the block (spec R22). -/
theorem getField_highHalf (b : Block) {o w : Nat} (h : o + w ≤ 64) :
    getField (highHalf b) o w = getField b (64 + o) w := by
  refine Nat.eq_of_testBit_eq fun k => ?_
  rw [getField_testBit, getField_testBit]
  by_cases hk : k < w
  · simp [highHalf, hk, show o + k < 64 by omega, Nat.add_assoc]
  · simp [hk]

/-- An RGB565 number of 16 bits, widened (spec R140, R141). -/
theorem expand565_eq {c : Nat} (hc : c < 2 ^ 16) :
    expand565 c = [expand 5 (c / 2048), expand 6 (c / 32 % 64), expand 5 (c % 32)] := by
  have hr : c / 2 ^ 11 % 2 ^ 5 = c / 2048 := by omega
  have hb : c / 2 ^ 0 % 2 ^ 5 = c % 32 := by omega
  rw [expand565, field, field, field, hr, hb]
  rfl

/-- A mixture of two colours, opaque (spec R141). -/
def mixColours (f : Nat → Nat → Nat) (c0 c1 : Nat) : Px := pxOf (List.zipWith f (expand565 c0) (expand565 c1)) 255

/-- A mixture that stays within the two values it mixes gives channel values. -/
theorem mixColours_inRange {f : Nat → Nat → Nat} (hf : ∀ x < 256, ∀ y < 256, f x y < 256) (c0 c1 : Nat) :
    PxInRange (mixColours f c0 c1) := by
  have hwide : ∀ n, 4 ≤ n → n ≤ 8 → ∀ c o, expand n (field c o n) < 256 := fun n hn hn' c o =>
    expand_lt hn hn' (field_lt c o n)
  have h5 := hwide 5 (by decide) (by decide)
  have h6 := hwide 6 (by decide) (by decide)
  exact ⟨hf _ (h5 _ _) _ (h5 _ _), hf _ (h6 _ _) _ (h6 _ _), hf _ (h5 _ _) _ (h5 _ _), (by decide : 255 < 256)⟩

/-- The alpha of selector 3 in the three-colour mode (spec R141, R5). -/
theorem idx3Value_eq (idx3 : Idx3Alpha) : idx3Value idx3 = if idx3 = .opaqueBlack then 255 else 0 := by
  cases idx3 <;> rfl

/-- The BC1 palette as mixtures of its two endpoints (spec R141). -/
theorem bc1Palette_eq (idx3 : Idx3Alpha) (c0 c1 : Nat) (four : Bool) : bc1Palette idx3 c0 c1 four =
    if c0 > c1 ∨ four = true then
      [mixColours (fun x _ => x) c0 c1, mixColours (fun _ y => y) c0 c1,
        mixColours (fun x y => (2 * x + y) / 3) c0 c1, mixColours (fun x y => (x + 2 * y) / 3) c0 c1]
    else
      [mixColours (fun x _ => x) c0 c1, mixColours (fun _ y => y) c0 c1,
        mixColours (fun x y => (x + y) / 2) c0 c1, ⟨0, 0, 0, idx3Value idx3⟩] := rfl

/-- The colours of a BC1 palette have channel values (spec R141). -/
theorem bc1Palette_inRange (idx3 : Idx3Alpha) (c0 c1 : Nat) (four : Bool) (k : Nat) :
    PxInRange ((bc1Palette idx3 c0 c1 four).getD k default) := by
  have hfirst := mixColours_inRange (f := fun x _ => x) (fun _ hx _ _ => hx) c0 c1
  have hsecond := mixColours_inRange (f := fun _ y => y) (fun _ _ _ hy => hy) c0 c1
  have hthird := mixColours_inRange (f := fun x y => (2 * x + y) / 3) (fun _ _ _ _ => by omega) c0 c1
  have htwothirds := mixColours_inRange (f := fun x y => (x + 2 * y) / 3) (fun _ _ _ _ => by omega) c0 c1
  have hhalf := mixColours_inRange (f := fun x y => (x + y) / 2) (fun _ _ _ _ => by omega) c0 c1
  have hblack : PxInRange ⟨0, 0, 0, idx3Value idx3⟩ := by
    cases idx3 <;> exact ⟨by decide, by decide, by decide, by decide⟩
  refine getD_of_forall_mem (fun p hp => ?_) ⟨by decide, by decide, by decide, by decide⟩ k
  rw [bc1Palette_eq] at hp
  split at hp <;> simp only [List.mem_cons, List.not_mem_nil, or_false] at hp
  · rcases hp with rfl | rfl | rfl | rfl <;> assumption
  · rcases hp with rfl | rfl | rfl | rfl <;> assumption

/-- The colour of pixel `i` of a BC1 block that is the low half (spec R153). -/
theorem bc1Decode_lowHalf (idx3 : Idx3Alpha) (b : Block) (four : Bool) : bc1Decode idx3 (lowHalf b) four =
    (List.range 16).map fun i => (bc1Palette idx3 (getField b 0 16) (getField b 16 16) four).getD
      (getField b (32 + 2 * i) 2) default := by
  refine List.map_congr_left fun i hi => ?_
  rw [List.mem_range] at hi
  rw [bc1C0, bc1C1, bc1Sel, getField_lowHalf b (by decide), getField_lowHalf b (by decide),
    getField_lowHalf b (by omega)]

/-- The colour of pixel `i` of a BC1 block that is the high half (spec R153). -/
theorem bc1Decode_highHalf (idx3 : Idx3Alpha) (b : Block) (four : Bool) : bc1Decode idx3 (highHalf b) four =
    (List.range 16).map fun i => (bc1Palette idx3 (getField b 64 16) (getField b 80 16) four).getD
      (getField b (96 + 2 * i) 2) default := by
  refine List.map_congr_left fun i hi => ?_
  rw [List.mem_range] at hi
  rw [bc1C0, bc1C1, bc1Sel, getField_highHalf b (by decide), getField_highHalf b (by decide),
    getField_highHalf b (by omega), ← Nat.add_assoc]

/-- The value an index names between two endpoints, for an index above 1 (spec R143). -/
theorem bc4Palette_getD (e0 e1 : Nat) {k : Nat} (hk : 2 ≤ k) (hk' : k < 8) : (bc4Palette e0 e1).getD k 0 =
    if e0 > e1 then ((8 - k) * e0 + (k - 1) * e1) / 7
    else if k = 6 then 0 else if k = 7 then 255 else ((6 - k) * e0 + (k - 1) * e1) / 5 := by
  unfold bc4Palette
  split
  · interval_cases k <;> rfl
  · interval_cases k <;> rfl

/-- The indices 0 and 1 name the endpoints (spec R143). -/
theorem bc4Palette_getD_ends (e0 e1 : Nat) : (bc4Palette e0 e1).getD 0 0 = e0 ∧ (bc4Palette e0 e1).getD 1 0 = e1 := by
  unfold bc4Palette
  split <;> exact ⟨rfl, rfl⟩

/-- The values of a BC4 palette are channel values (spec R143). -/
theorem bc4Palette_lt {e0 e1 k : Nat} (h0 : e0 < 256) (h1 : e1 < 256) (hk : k < 8) :
    (bc4Palette e0 e1).getD k 0 < 256 := by
  obtain ⟨hfirst, hsecond⟩ := bc4Palette_getD_ends e0 e1
  rcases lt_or_ge k 2 with hlow | hhigh
  · interval_cases k <;> omega
  · rw [bc4Palette_getD e0 e1 hhigh hk]
    interval_cases k <;> split_ifs <;> omega

/-- The value of pixel `i` of the BC4 block at bit `o` (spec R142, R143). -/
def bc4Value (b : Block) (o i : Nat) : Nat :=
  (bc4Palette (getField b o 8) (getField b (o + 8) 8)).getD (getField b (o + 16 + 3 * i) 3) 0

/-- The value of a pixel by its index: an endpoint for 0 and 1, an interpolated or fixed value for the others (spec
R143). -/
theorem bc4Value_by_index (b : Block) (o i : Nat) :
    let e0 := getField b o 8
    let e1 := getField b (o + 8) 8
    let k := getField b (o + 16 + 3 * i) 3
    (k = 0 → bc4Value b o i = e0) ∧ (k = 1 → bc4Value b o i = e1) ∧
      (k ≠ 0 → k ≠ 1 → bc4Value b o i = if e0 > e1 then ((8 - k) * e0 + (k - 1) * e1) / 7
        else if k = 6 then 0 else if k = 7 then 255 else ((6 - k) * e0 + (k - 1) * e1) / 5) := by
  obtain ⟨hfirst, hsecond⟩ := bc4Palette_getD_ends (getField b o 8) (getField b (o + 8) 8)
  refine ⟨fun h => ?_, fun h => ?_, fun h0 h1 => ?_⟩
  · rw [bc4Value, h, hfirst]
  · rw [bc4Value, h, hsecond]
  · exact bc4Palette_getD _ _ ((Nat.two_le_iff _).mpr ⟨h0, h1⟩) (getField_lt b (o + 16 + 3 * i) 3)

/-- The values of a BC4 block are channel values (spec R143). -/
theorem bc4Value_lt (b : Block) (o i : Nat) : bc4Value b o i < 256 :=
  bc4Palette_lt (getField_lt b o 8) (getField_lt b (o + 8) 8) (getField_lt b (o + 16 + 3 * i) 3)

/-- The values of a BC4 block that is the low half (spec R153). -/
theorem bc4Decode_lowHalf (b : Block) : bc4Decode (lowHalf b) = (List.range 16).map (bc4Value b 0) := by
  refine List.map_congr_left fun i hi => ?_
  rw [List.mem_range] at hi
  rw [bc4E0, bc4E1, bc4Idx, getField_lowHalf b (by decide), getField_lowHalf b (by decide),
    getField_lowHalf b (by omega), bc4Value]

/-- The values of a BC4 block that is the high half (spec R153). -/
theorem bc4Decode_highHalf (b : Block) : bc4Decode (highHalf b) = (List.range 16).map (bc4Value b 64) := by
  refine List.map_congr_left fun i hi => ?_
  rw [List.mem_range] at hi
  rw [bc4E0, bc4E1, bc4Idx, getField_highHalf b (by decide), getField_highHalf b (by decide),
    getField_highHalf b (by omega), bc4Value, ← Nat.add_assoc]

/-- Two lists given by the pixel number, put together pixel by pixel. -/
theorem zipWith_map_range {α β γ : Type} (f : α → β → γ) (g : Nat → α) (h : Nat → β) (n : Nat) :
    List.zipWith f ((List.range n).map g) ((List.range n).map h) = (List.range n).map fun i => f (g i) (h i) := by
  rw [List.zipWith_map, List.zipWith_self]

/-- A pixel of the tile `DEC.BC1` writes (spec R201). -/
theorem tilePx_decodeBc1 (idx3 : Idx3Alpha) (b : Block) {i : Nat} (hi : i < 16) :
    tilePx (tileOfPixels (decodeBc1 idx3 b)) i =
      (bc1Palette idx3 (getField b 0 16) (getField b 16 16) false).getD (getField b (32 + 2 * i) 2) default := by
  rw [decodeBc1, bc1Decode_lowHalf]
  exact tilePx_tileOfPixels_range hi (bc1Palette_inRange _ _ _ _ _)

/-- A pixel of the tile `DEC.BC3` writes (spec R202, R144). -/
theorem tilePx_decodeBc3 (idx3 : Idx3Alpha) (b : Block) {i : Nat} (hi : i < 16) :
    tilePx (tileOfPixels (decodeBc3 idx3 b)) i =
      { (bc1Palette idx3 (getField b 64 16) (getField b 80 16) true).getD (getField b (96 + 2 * i) 2) default with
        a := bc4Value b 0 i } := by
  obtain ⟨hr, hg, hb, -⟩ := bc1Palette_inRange idx3 (getField b 64 16) (getField b 80 16) true
    (getField b (96 + 2 * i) 2)
  rw [decodeBc3, bc1Decode_highHalf, bc4Decode_lowHalf, zipWith_map_range]
  exact tilePx_tileOfPixels_range hi ⟨hr, hg, hb, bc4Value_lt b 0 i⟩

/-- A pixel of the tile `DEC.BC4` writes (spec R203). -/
theorem tilePx_decodeBc4 (b : Block) {i : Nat} (hi : i < 16) :
    tilePx (tileOfPixels (decodeBc4 b)) i = ⟨bc4Value b 0 i, 0, 0, 255⟩ := by
  rw [decodeBc4, bc4Decode_lowHalf, List.map_map]
  exact tilePx_tileOfPixels_range hi ⟨bc4Value_lt b 0 i, (by decide : 0 < 256), (by decide : 0 < 256),
    (by decide : 255 < 256)⟩

/-- A pixel of the tile `DEC.BC5` writes (spec R204). -/
theorem tilePx_decodeBc5 (b : Block) {i : Nat} (hi : i < 16) :
    tilePx (tileOfPixels (decodeBc5 b)) i = ⟨bc4Value b 0 i, bc4Value b 64 i, 0, 255⟩ := by
  rw [decodeBc5, bc4Decode_lowHalf, bc4Decode_highHalf, zipWith_map_range]
  exact tilePx_tileOfPixels_range hi ⟨bc4Value_lt b 0 i, bc4Value_lt b 64 i, (by decide : 0 < 256),
    (by decide : 255 < 256)⟩

end Sys2Proof.Machine
end

section
/-! The obligations of the decoder family (44_decoders_bc.md). -/

namespace Sys2Proof.Machine

/-- Settles O31: the search's choice is legal, canonicalisation keeps its pixels, and the packed canonical choice
decodes to them. -/
theorem decBc7InvertsEncBc7 : Obligations.DecBc7InvertsEncBc7 := by
  unfold Obligations.DecBc7InvertsEncBc7
  intro s l hrun hl hs hready
  have hcontract := choiceContract_bc7Search (searchArgs_legal hl hs hready) s.params
  have hlegal : LegalChoice (bc7Search s.params (searchArgs s l)) := ((choiceContract_iff _ _).mp hcontract).2
  have hcanon := hlegal.canonicalise
  have hrun' := running_putLane hrun (laneWithBlock l (encBc7 s.params (searchArgs s l)))
    ((laneWithBlock_fault _ _).trans hrun.2)
  refine ⟨hcontract, _, _, _, exec_encBc7_ready hrun hready, exec_decBc7 hrun', curLane_putLane hrun'.1, ?_⟩
  have hblock : bc7Decode (encBc7 s.params (searchArgs s l)) = choicePixels (bc7Search s.params (searchArgs s l)) :=
    (hcanon.legal.bc7Decode_packChoice hlegal.anchorsClear_canonicalise).trans hcanon.pixels_eq
  rw [laneWithTile_tile, laneWithBlock_blk, tilePixels_bc7Decode, hblock]

/-- Settles O50: the selector names a colour of the palette, in the mode the order of the endpoints selects. -/
theorem decBc1Effect : Obligations.DecBc1Effect := by
  unfold Obligations.DecBc1Effect
  intro s l hrun
  refine ⟨_, runCommand_running hrun _, fun i hi => (tilePx_decodeBc1 _ _ hi).trans ?_⟩
  have h0 := expand565_eq (getField_lt l.blk 0 16)
  have h1 := expand565_eq (getField_lt l.blk 16 16)
  have hk := getField_lt l.blk (32 + 2 * i) 2
  extract_lets c0 c1 ch mix
  have hmix : ∀ f, mixColours f c0 c1 = mix f := fun f => by
    rw [mixColours, h0, h1]
    rfl
  change (bc1Palette s.params.idx3 c0 c1 false).getD _ _ = _
  simp only [bc1Palette_eq, hmix, idx3Value_eq]
  generalize getField l.blk (32 + 2 * i) 2 = k at hk
  by_cases hgt : c0 > c1
  · rw [if_pos (.inl hgt), if_pos hgt, if_pos hgt]
    interval_cases k <;> rfl
  · rw [if_neg (by simpa using hgt), if_neg hgt, if_neg hgt]
    interval_cases k <;> rfl

/-- Settles O51: a pixel's value is the palette entry its index names, and the palette is the one spelled out. -/
theorem decBc4AndDecBc5Effect : Obligations.DecBc4AndDecBc5Effect := by
  unfold Obligations.DecBc4AndDecBc5Effect
  intro s l hrun value
  have hvalue : ∀ o i, bc4Value l.blk o i = value o i := fun o i => by
    obtain ⟨hfirst, hsecond, hother⟩ := bc4Value_by_index l.blk o i
    simp only [value]
    split
    · next h => exact hfirst h
    · next h => exact hsecond h
    · next h0 h1 => exact hother h0 h1
  refine ⟨⟨_, runCommand_running hrun _, fun i hi => ?_⟩, ⟨_, runCommand_running hrun _, fun i hi => ?_⟩⟩
  · exact (tilePx_decodeBc4 l.blk hi).trans (by rw [hvalue])
  · exact (tilePx_decodeBc5 l.blk hi).trans (by rw [hvalue, hvalue])

/-- Settles O52: the alpha is the value of the low half, the colour that of the four-colour palette of the high half. -/
theorem decBc3Effect : Obligations.DecBc3Effect := by
  unfold Obligations.DecBc3Effect
  intro s l hrun value
  have hvalue : bc4Value l.blk 0 = value 0 := funext fun i => by
    obtain ⟨hfirst, hsecond, hother⟩ := bc4Value_by_index l.blk 0 i
    simp only [value]
    split
    · next h => exact hfirst h
    · next h => exact hsecond h
    · next h0 h1 => exact hother h0 h1
  refine ⟨_, runCommand_running hrun _, fun i hi => ?_⟩
  have h0 := expand565_eq (getField_lt l.blk 64 16)
  have h1 := expand565_eq (getField_lt l.blk 80 16)
  have hk := getField_lt l.blk (96 + 2 * i) 2
  extract_lets c0 c1 ch mix
  have hmix : ∀ f, { mixColours f c0 c1 with a := value 0 i } = mix f := fun f => by
    rw [mixColours, h0, h1]
    rfl
  rw [tilePx_decodeBc3 _ _ hi, bc1Palette_eq, if_pos (.inr rfl), hvalue]
  generalize getField l.blk (96 + 2 * i) 2 = k at hk
  interval_cases k <;> exact hmix _

/-- Settles O53: each channel of a pixel is the interpolation the statement spells out, and the rotation exchanges
channels. -/
theorem decBc7Effect : Obligations.DecBc7Effect := by
  unfold Obligations.DecBc7Effect
  intro s l hrun
  refine ⟨tileOfPixels (bc7Decode l.blk), exec_decBc7 hrun, tilePixels_bc7Decode l.blk,
    fun hzero i hi => tilePx_bc7Decode_reserved (bc7ModeOf_reserved hzero) hi, fun m hm hset hclear => ?_⟩
  have hmode := bc7ModeOf_eq hm hset hclear
  refine ⟨hmode, fun i hi => ?_⟩
  generalize hrow : List.getD _ m _ = row
  replace hrow : row = bc7DecodeRow m := by rw [← hrow]; interval_cases m <;> rfl
  intro f
  split
  simp only [bc7DecodeRow, Prod.mk.injEq] at hrow
  obtain ⟨rfl, rfl, rfl, rfl, rfl, rfl, rfl⟩ := hrow
  intro comp w w1 w2 wc wa sub mix
  obtain ⟨hrot, hisb, hisb0, hrot0⟩ := bc7Fields_rot_isb_bounds hm l.blk
  obtain ⟨hib, hib2⟩ := bc7Mode_selectorBits m hm
  have hcomp : ∀ e, ∀ ch < 4, comp e ch = chan (bc7Endpoint (bc7Mode m) f.pb f.q e) ch := fun e ch hch => by
    rw [chan_bc7Endpoint (bc7Mode_cb_pos m hm) _ _ _ hch, reconstruct_endpointPbit]
    rfl
  have hw : ∀ n ∈ [2, 3, 4], ∀ j, w n j = weight n j := by
    simp [w, weight, weights]
  have hmix : ∀ ch < 4, mix ch (channelWeight f i ch) = bc7Mix f i ch := fun ch hch => by
    simp only [mix, hcomp _ ch hch]
    rfl
  have hw1 : w1 = weight (bc7Mode m).ib (f.sel1.getD i 0) := hw _ hib _
  have hw2 : (bc7Mode m).ib2 ≠ 0 → w2 = weight (bc7Mode m).ib2 (f.sel2.getD i 0) := fun hne =>
    hw _ (List.mem_append_left [4] ((List.mem_cons.mp hib2).resolve_left hne)) _
  have hselected : ∀ k, (if (bc7Mode m).ib2 = 0 ∨ f.isb = k then w1 else w2) = if (bc7Mode m).ib2 = 0 ∨ f.isb = k then
      weight (bc7Mode m).ib (f.sel1.getD i 0) else weight (bc7Mode m).ib2 (f.sel2.getD i 0) := fun k => by
    split_ifs with hk
    · exact hw1
    · exact hw2 fun hzero => hk (.inl hzero)
  have hwc : ∀ ch < 3, wc = channelWeight f i ch := fun ch hch => by
    rw [channelWeight_eq hisb, if_neg hch.ne]
    exact hselected 0
  have hwa : wa = channelWeight f i 3 := (hselected 1).trans (channelWeight_eq hisb i 3).symm
  have hpixel : tilePx (tileOfPixels (bc7Decode l.blk)) i =
      rotatePx f.rot ⟨mix 0 wc, mix 1 wc, mix 2 wc, mix 3 wa⟩ := by
    rw [tilePx_bc7Decode hm hmode hi, bc7Pixel_eq, ← hmix 0 (by decide), ← hmix 1 (by decide), ← hmix 2 (by decide),
      ← hmix 3 (by decide), ← hwc 0 (by decide), ← hwc 1 (by decide), ← hwc 2 (by decide), ← hwa]
  refine ⟨fun h => ?_, fun h => ?_, fun h => ?_, fun h => ?_, hrot, hisb, hisb0, hrot0, fun h4 => ?_⟩
  · rw [hpixel, h]; rfl
  · rw [hpixel, h]; rfl
  · rw [hpixel, h]; rfl
  · rw [hpixel, h]; rfl
  · have hab : ∀ mode < 4, (bc7Mode mode).ab = 0 := by decide
    rw [hpixel, hrot0 (by omega) (by omega), hwa, hmix 3 (by decide)]
    exact bc7Mix_alpha_absent (hab m h4) i

end Sys2Proof.Machine
end


section
/-! SUPPORT. Reading back the fields of a packed number (R7, R90, R147), and the two selector planes of a colour block
as such a number (R170). -/

namespace Sys2Proof.Machine

/-- Field `k` of packed fields, at the sum of the widths before it, is the value packed there (spec R90, R147). -/
theorem field_packFields {fs : List (Nat × Nat)} (hfit : ∀ f ∈ fs, f.1 < 2 ^ f.2) (k : Nat) :
    field (packFields fs) ((fs.map Prod.snd).take k).sum ((fs.map Prod.snd).getD k 0) = (fs.map Prod.fst).getD k 0 := by
  rw [← getD_splitFields, splitFields_packFields fs hfit]

/-- Digits of one width at their places add up to the packed digits (spec R8, R90). -/
theorem sum_range_eq_packFields {w n : Nat} {f : Nat → Nat} (hf : ∀ i < n, f i < 2 ^ w) :
    ((List.range n).map fun i => f i * 2 ^ (w * i)).sum = packFields ((List.range n).map fun i => (f i, w)) := by
  induction n generalizing f with
  | zero => rfl
  | succ n ih =>
    have hplace : ∀ i, f (i + 1) * 2 ^ (w * (i + 1)) = 2 ^ w * (f (i + 1) * 2 ^ (w * i)) := fun i => by
      rw [Nat.mul_succ, Nat.pow_add]; ring
    have hrest := ih (f := fun i => f (i + 1)) fun i hi => hf (i + 1) (by omega)
    rw [List.range_succ_eq_map]
    simp only [List.map_cons, List.map_map, Function.comp_def, Nat.succ_eq_add_one, List.sum_cons, packFields, hplace,
      List.sum_map_mul_left, hrest, Nat.mod_eq_of_lt (hf 0 n.succ_pos), Nat.mul_zero, Nat.pow_zero, Nat.mul_one]

/-- Digit `i` of packed digits of one width (spec R90). -/
theorem field_packFields_range {w n i : Nat} {f : Nat → Nat} (hf : ∀ i < n, f i < 2 ^ w) (hi : i < n) :
    field (packFields ((List.range n).map fun k => (f k, w))) (w * i) w = f i := by
  have h := field_packFields (fs := (List.range n).map fun k => (f k, w)) (by simpa using hf) i
  simpa [Function.comp_def, List.take_replicate, hi, hi.le, Nat.mul_comm] using h

/-- A field of a field (spec R8). -/
theorem field_field (x o : Nat) {n p a : Nat} (h : p + a ≤ n) : field (field x o n) p a = field x (o + p) a := by
  refine Nat.eq_of_testBit_eq fun k => ?_
  simp only [field, Nat.testBit_mod_two_pow, Nat.testBit_div_two_pow]
  by_cases hk : k < a
  · have hn : p + k < n := by omega
    simp only [hk, hn, decide_true, Bool.true_and, Nat.add_comm, Nat.add_left_comm]
  · simp only [hk, decide_false, Bool.false_and]

/-- The place of a pixel in a selector plane is one of sixteen (spec R170). -/
theorem planePos_lt {i : Nat} (hi : i < 16) : planePos i < 16 := by
  unfold planePos colOf rowOf; omega

/-- Transposing the tile twice restores it (spec R170). -/
theorem planePos_planePos {i : Nat} (hi : i < 16) : planePos (planePos i) = i := by
  unfold planePos colOf rowOf; omega

/-- A plane that holds one bit for every pixel (spec R170). -/
def bitPlane (f : Nat → Nat) : Nat := packFields ((List.range 16).map fun n => (f (planePos n), 1))

/-- A plane has sixteen bits (spec R170). -/
theorem bitPlane_lt (f : Nat → Nat) : bitPlane f < 2 ^ 16 := by
  have hwidths : (((List.range 16).map fun n => (f (planePos n), 1)).map Prod.snd).sum = 16 := by
    simp [Function.comp_def]
  exact hwidths ▸ packFields_lt _

/-- The bits of the pixels, each at its place, add up to the plane (spec R170). -/
theorem sum_eq_bitPlane {f : Nat → Nat} (hf : ∀ i, f i < 2) :
    ((List.range 16).map fun i => f i * 2 ^ planePos i).sum = bitPlane f := by
  have hsum := sum_planePos fun n => f (planePos n) * 2 ^ n
  have hpack := sum_range_eq_packFields (w := 1) (n := 16) (f := fun n => f (planePos n)) fun n _ => hf (planePos n)
  simp only [Nat.one_mul] at hpack
  rw [bitPlane, ← hpack, ← hsum]
  refine congrArg List.sum (List.map_congr_left fun i hi => ?_)
  rw [planePos_planePos (List.mem_range.mp hi)]

/-- The bit of a plane at a pixel's place is the pixel's (spec R170). -/
theorem field_bitPlane {f : Nat → Nat} (hf : ∀ i, f i < 2) {i : Nat} (hi : i < 16) :
    field (bitPlane f) (planePos i) 1 = f i := by
  have h := field_packFields_range (w := 1) (n := 16) (f := fun n => f (planePos n)) (fun n _ => hf (planePos n))
    (planePos_lt hi)
  rwa [Nat.one_mul, planePos_planePos hi] at h

/-- The selector planes: the low bits of the selectors below, the high bits above (spec R170). -/
theorem etcPlanes_eq (sel : List Nat) : etcPlanes sel =
    bitPlane (fun i => sel.getD i 0 % 2) + 2 ^ 16 * bitPlane fun i => sel.getD i 0 / 2 % 2 := by
  rw [← sum_eq_bitPlane fun i => Nat.mod_lt _ (by decide), ← sum_eq_bitPlane fun i => Nat.mod_lt _ (by decide),
    ← List.sum_map_mul_left, ← List.sum_map_add, etcPlanes]
  refine congrArg List.sum (List.map_congr_left fun i _ => ?_)
  rw [Nat.pow_add]
  ring

/-- The selector planes fill 32 bits (spec R170). -/
theorem etcPlanes_lt (sel : List Nat) : etcPlanes sel < 2 ^ 32 := by
  have hlow := bitPlane_lt fun i => sel.getD i 0 % 2
  have hhigh := bitPlane_lt fun i => sel.getD i 0 / 2 % 2
  rw [etcPlanes_eq]
  omega

/-- The low and the high plane read from the selector planes (spec R170). -/
theorem field_etcPlanes (sel : List Nat) : field (etcPlanes sel) 0 16 = bitPlane (fun i => sel.getD i 0 % 2) ∧
    field (etcPlanes sel) 16 16 = bitPlane fun i => sel.getD i 0 / 2 % 2 := by
  have hlow := bitPlane_lt fun i => sel.getD i 0 % 2
  have hhigh := bitPlane_lt fun i => sel.getD i 0 / 2 % 2
  rw [etcPlanes_eq]
  unfold field
  omega

/-- The selector of a pixel in a word whose low 32 bits are the planes of the selectors (spec R170, R229). -/
theorem etcSel_of_planes {w : Nat} {sel : List Nat} (hw : field w 0 32 = etcPlanes sel) {i : Nat} (hi : i < 16)
    (hsel : sel.getD i 0 < 4) : etcSel w i = sel.getD i 0 := by
  have hpos := planePos_lt hi
  obtain ⟨hlow, hhigh⟩ := field_etcPlanes sel
  have h0 : field w (planePos i) 1 = sel.getD i 0 % 2 := by
    rw [← field_bitPlane (f := fun i => sel.getD i 0 % 2) (fun i => Nat.mod_lt _ (by decide)) hi, ← hlow, ← hw,
      field_field _ _ (by omega), field_field _ _ (by omega), Nat.zero_add, Nat.zero_add]
  have h1 : field w (16 + planePos i) 1 = sel.getD i 0 / 2 % 2 := by
    rw [← field_bitPlane (f := fun i => sel.getD i 0 / 2 % 2) (fun i => Nat.mod_lt _ (by decide)) hi, ← hhigh, ← hw,
      field_field _ _ (by omega), field_field _ _ (by omega), Nat.zero_add]
  rw [etcSel, h0, h1]
  omega

end Sys2Proof.Machine
end

section
/-! SUPPORT. The words the ETC packers add up, as fields laid side by side: each field reads back as it was packed
(R229, R235, R240). -/

namespace Sys2Proof.Machine

/-- Fields `(value, width)` laid one after another from bit `o` upward, as the sum the packers write (spec R229). -/
def sumFields (o : Nat) : List (Nat × Nat) → Nat
  | [] => 0
  | (v, w) :: rest => v * 2 ^ o + sumFields (o + w) rest

/-- When each value fits its width, the sum is the packed fields at their place (spec R90, R229). -/
theorem sumFields_eq_packFields {fs : List (Nat × Nat)} (hfit : ∀ f ∈ fs, f.1 < 2 ^ f.2) (o : Nat) :
    sumFields o fs = packFields fs * 2 ^ o := by
  induction fs generalizing o with
  | nil => exact (Nat.zero_mul _).symm
  | cons f fs ih =>
    obtain ⟨v, w⟩ := f
    obtain ⟨hv, hfs⟩ := List.forall_mem_cons.mp hfit
    rw [sumFields, packFields, Nat.mod_eq_of_lt hv, ih hfs, Nat.pow_add]
    ring

/-- A word of fields is below two to the sum of their widths (spec R229). -/
theorem sumFields_lt {fs : List (Nat × Nat)} (hfit : ∀ f ∈ fs, f.1 < 2 ^ f.2) {n : Nat}
    (hn : (fs.map Prod.snd).sum = n) : sumFields 0 fs < 2 ^ n := by
  rw [sumFields_eq_packFields hfit, Nat.pow_zero, Nat.mul_one, ← hn]
  exact packFields_lt fs

/-- From bit `o` upward `x` holds the fields `(value, width)` one after another (spec R90, R229). -/
def FieldsAt (x o : Nat) : List (Nat × Nat) → Prop
  | [] => True
  | (v, w) :: rest => field x o w = v ∧ FieldsAt x (o + w) rest

/-- A number that is the packed fields above bit `o` holds them there (spec R90). -/
theorem fieldsAt_of_div_eq {fs : List (Nat × Nat)} (hfit : ∀ f ∈ fs, f.1 < 2 ^ f.2) {x o : Nat}
    (hx : x / 2 ^ o = packFields fs) : FieldsAt x o fs := by
  induction fs generalizing o with
  | nil => trivial
  | cons f fs ih =>
    obtain ⟨v, w⟩ := f
    obtain ⟨hv, hfs⟩ := List.forall_mem_cons.mp hfit
    rw [packFields, Nat.mod_eq_of_lt hv] at hx
    refine ⟨?_, ih hfs ?_⟩
    · rw [field, hx, Nat.add_mul_mod_self_left, Nat.mod_eq_of_lt hv]
    · rw [Nat.pow_add, ← Nat.div_div_eq_div_mul, hx, Nat.add_mul_div_left _ _ (Nat.two_pow_pos w), Nat.div_eq_of_lt hv,
        Nat.zero_add]

/-- A word of fields holds them from bit 0 upward (spec R229). -/
theorem fieldsAt_sumFields {fs : List (Nat × Nat)} (hfit : ∀ f ∈ fs, f.1 < 2 ^ f.2) :
    FieldsAt (sumFields 0 fs) 0 fs :=
  fieldsAt_of_div_eq hfit (by rw [sumFields_eq_packFields hfit, Nat.pow_zero, Nat.mul_one, Nat.div_one])

/-- A 4-bit channel widened (spec R10). -/
theorem expand_four (q : Nat) : expand 4 q = 17 * q := by
  rw [expand, if_neg (by decide)]
  omega

/-- Three 4-bit channels widened (spec R10). -/
theorem expand4Colour_rgb (r g b : Nat) : expand4Colour [r, g, b] = [17 * r, 17 * g, 17 * b] := by
  simp only [expand4Colour, List.map_cons, List.map_nil, expand_four]

end Sys2Proof.Machine
end

section
/-! SUPPORT. The words of T and H blocks (R175, R176, R235): the padding makes the differential sum overflow in the
channel where R171 looks for it, and the other fields read back. -/

namespace Sys2Proof.Machine

variable {r1 g1 b1 r2 g2 b2 di : Nat} {sel : List Nat}

/-- The fields of a T word from bit 0 upward: the layout of R175 with the padding of R235 at bit 58 and above 60. -/
def tFields (r1 g1 b1 r2 g2 b2 di : Nat) (sel : List Nat) : List (Nat × Nat) :=
  [ (etcPlanes sel, 32), (di % 2, 1), (1, 1), (di / 2, 2), (b2, 4), (g2, 4), (r2, 4), (b1, 4), (g1, 4),
    (r1 % 4, 2), (if r1 / 4 + r1 % 4 ≥ 4 then 0 else 1, 1), (r1 / 4, 2), (if r1 / 4 + r1 % 4 ≥ 4 then 7 else 0, 3) ]

/-- A T word is its fields side by side (spec R235). -/
theorem tWord_eq_sumFields : tWord [r1, g1, b1] [r2, g2, b2] di sel =
    sumFields 0 (tFields r1 g1 b1 r2 g2 b2 di sel) := by
  have hpad : (if r1 / 4 + r1 % 4 ≥ 4 then 7 * 2 ^ 61 else 2 ^ 58) =
      (if r1 / 4 + r1 % 4 ≥ 4 then 0 else 1) * 2 ^ 58 + (if r1 / 4 + r1 % 4 ≥ 4 then 7 else 0) * 2 ^ 61 := by
    split_ifs <;> rfl
  simp only [tWord, tFields, sumFields, chan, List.getD_cons_zero, List.getD_cons_succ, hpad]
  ring

/-- The fields of an H word from bit 0 upward: the layout of R176, its channel B of the first colour at bits 47 to 49
cut after the lowest bit, with the padding of R235 at bits 50, 53 to 55 and 63. -/
def hFields (r1 g1 b1 r2 g2 b2 di : Nat) (sel : List Nat) : List (Nat × Nat) :=
  [ (etcPlanes sel, 32), (di / 2 % 2, 1), (1, 1), (di / 4, 1), (b2, 4), (g2, 4), (r2, 4), (b1 % 8 % 2, 1),
    (b1 % 8 / 2, 2), (if 2 * (g1 % 2) + b1 / 8 + b1 % 8 / 2 ≥ 4 then 0 else 1, 1), (b1 / 8, 1), (g1 % 2, 1),
    (if 2 * (g1 % 2) + b1 / 8 + b1 % 8 / 2 ≥ 4 then 7 else 0, 3), (g1 / 2, 3), (r1, 4),
    (if g1 / 2 ≥ 4 then 1 else 0, 1) ]

/-- An H word is its fields side by side (spec R235). -/
theorem hWord_eq_sumFields : hWord [r1, g1, b1] [r2, g2, b2] di sel =
    sumFields 0 (hFields r1 g1 b1 r2 g2 b2 di sel) := by
  have hpadR : (if g1 / 2 ≥ 4 then 2 ^ 63 else 0) = (if g1 / 2 ≥ 4 then 1 else 0) * 2 ^ 63 := by split_ifs <;> rfl
  have hpadG : (if 2 * (g1 % 2) + b1 / 8 + b1 % 8 / 2 ≥ 4 then 7 * 2 ^ 53 else 2 ^ 50) =
      (if 2 * (g1 % 2) + b1 / 8 + b1 % 8 / 2 ≥ 4 then 0 else 1) * 2 ^ 50 +
        (if 2 * (g1 % 2) + b1 / 8 + b1 % 8 / 2 ≥ 4 then 7 else 0) * 2 ^ 53 := by split_ifs <;> rfl
  have hlow : b1 % 8 * 2 ^ 47 = b1 % 8 % 2 * 2 ^ 47 + b1 % 8 / 2 * 2 ^ 48 := by omega
  simp only [hWord, hFields, sumFields, chan, List.getD_cons_zero, List.getD_cons_succ, hpadR, hpadG, hlow]
  ring

/-- A sum of two 2-bit parts, the lower part's field made signed and the upper part's field widened by the padding of
R235, overflows the way the padding was chosen for (spec R171, R235). -/
theorem sumOverflows_of_padding {w lo : Nat} (low high : Nat) (hlow : field w lo 2 = low)
    (hsign : field w (lo + 2) 1 = if high + low ≥ 4 then 0 else 1) (hhigh : field w (lo + 3) 2 = high)
    (hpad : field w (lo + 5) 3 = if high + low ≥ 4 then 7 else 0) : sumOverflows (diffSum w lo) = true := by
  have hdelta : field w lo 3 = field w lo 2 + 4 * field w (lo + 2) 1 := field_add w lo 2 1
  have hbase : field w (lo + 3) 5 = field w (lo + 3) 2 + 4 * field w (lo + 5) 3 := field_add w (lo + 3) 2 3
  have hlt := field_lt w lo 2
  by_contra hin
  rw [Bool.not_eq_true, sumOverflows_eq_false_iff, diffSum, sext3] at hin
  split_ifs at hsign hpad hin <;> omega

/-- A differential sum in range does not overflow (spec R171). -/
theorem sumOverflows_of_le {v : Int} (h0 : 0 ≤ v) (h31 : v ≤ 31) : ¬sumOverflows v = true := by
  rw [(sumOverflows_eq_false_iff v).mpr ⟨h0, h31⟩]
  exact Bool.false_ne_true

section
variable (h1 : r1 < 16 ∧ g1 < 16 ∧ b1 < 16) (h2 : r2 < 16 ∧ g2 < 16 ∧ b2 < 16) (hdi : di < 8)
include h1 h2 hdi

/-- The values of a T word fit their fields (spec R235). -/
theorem tFields_fit : ∀ f ∈ tFields r1 g1 b1 r2 g2 b2 di sel, f.1 < 2 ^ f.2 := by
  have hplanes := etcPlanes_lt sel
  have hsign : (if r1 / 4 + r1 % 4 ≥ 4 then 0 else 1) < 2 ^ 1 := by split_ifs <;> decide
  have hpad : (if r1 / 4 + r1 % 4 ≥ 4 then 7 else 0) < 2 ^ 3 := by split_ifs <;> decide
  simp only [tFields, List.forall_mem_cons]
  exact ⟨hplanes, by omega, by omega, by omega, by omega, by omega, by omega, by omega, by omega, by omega, hsign,
    by omega, hpad, List.forall_mem_nil _⟩

/-- The values of an H word fit their fields (spec R235). -/
theorem hFields_fit : ∀ f ∈ hFields r1 g1 b1 r2 g2 b2 di sel, f.1 < 2 ^ f.2 := by
  have hplanes := etcPlanes_lt sel
  have hsign : (if 2 * (g1 % 2) + b1 / 8 + b1 % 8 / 2 ≥ 4 then 0 else 1) < 2 ^ 1 := by split_ifs <;> decide
  have hpadG : (if 2 * (g1 % 2) + b1 / 8 + b1 % 8 / 2 ≥ 4 then 7 else 0) < 2 ^ 3 := by split_ifs <;> decide
  have hpadR : (if g1 / 2 ≥ 4 then 1 else 0) < 2 ^ 1 := by split_ifs <;> decide
  simp only [hFields, List.forall_mem_cons]
  exact ⟨hplanes, by omega, by omega, by omega, by omega, by omega, by omega, by omega, by omega, hsign, by omega,
    by omega, hpadG, by omega, by omega, hpadR, List.forall_mem_nil _⟩

/-- A T word has 64 bits (spec R235). -/
theorem tWord_lt : tWord [r1, g1, b1] [r2, g2, b2] di sel < 2 ^ 64 := by
  rw [tWord_eq_sumFields]
  exact sumFields_lt (tFields_fit h1 h2 hdi)
    (by simp only [tFields, List.map_cons, List.map_nil, List.sum_cons, List.sum_nil, Nat.reduceAdd])

/-- An H word has 64 bits (spec R235). -/
theorem hWord_lt : hWord [r1, g1, b1] [r2, g2, b2] di sel < 2 ^ 64 := by
  rw [hWord_eq_sumFields]
  exact sumFields_lt (hFields_fit h1 h2 hdi)
    (by simp only [hFields, List.map_cons, List.map_nil, List.sum_cons, List.sum_nil, Nat.reduceAdd])

/-- What a T word holds, bit offset by bit offset (spec R175, R235). -/
theorem tWord_fields : ∃ w, tWord [r1, g1, b1] [r2, g2, b2] di sel = w ∧
    field w 0 32 = etcPlanes sel ∧ field w 32 1 = di % 2 ∧ field w 33 1 = 1 ∧ field w 34 2 = di / 2 ∧
    field w 36 4 = b2 ∧ field w 40 4 = g2 ∧ field w 44 4 = r2 ∧ field w 48 4 = b1 ∧ field w 52 4 = g1 ∧
    field w 56 2 = r1 % 4 ∧ field w 58 1 = (if r1 / 4 + r1 % 4 ≥ 4 then 0 else 1) ∧ field w 59 2 = r1 / 4 ∧
    field w 61 3 = if r1 / 4 + r1 % 4 ≥ 4 then 7 else 0 := by
  have h := fieldsAt_sumFields (tFields_fit (sel := sel) h1 h2 hdi)
  rw [← tWord_eq_sumFields] at h
  refine ⟨_, rfl, ?_⟩
  simpa only [tFields, FieldsAt, Nat.reduceAdd, and_true] using h

/-- What an H word holds, bit offset by bit offset (spec R176, R235). -/
theorem hWord_fields : ∃ w, hWord [r1, g1, b1] [r2, g2, b2] di sel = w ∧
    field w 0 32 = etcPlanes sel ∧ field w 32 1 = di / 2 % 2 ∧ field w 33 1 = 1 ∧ field w 34 1 = di / 4 ∧
    field w 35 4 = b2 ∧ field w 39 4 = g2 ∧ field w 43 4 = r2 ∧ field w 47 1 = b1 % 8 % 2 ∧ field w 48 2 = b1 % 8 / 2 ∧
    field w 50 1 = (if 2 * (g1 % 2) + b1 / 8 + b1 % 8 / 2 ≥ 4 then 0 else 1) ∧ field w 51 1 = b1 / 8 ∧
    field w 52 1 = g1 % 2 ∧ field w 53 3 = (if 2 * (g1 % 2) + b1 / 8 + b1 % 8 / 2 ≥ 4 then 7 else 0) ∧
    field w 56 3 = g1 / 2 ∧ field w 59 4 = r1 ∧ field w 63 1 = if g1 / 2 ≥ 4 then 1 else 0 := by
  have h := fieldsAt_sumFields (hFields_fit (sel := sel) h1 h2 hdi)
  rw [← hWord_eq_sumFields] at h
  refine ⟨_, rfl, ?_⟩
  simpa only [hFields, FieldsAt, Nat.reduceAdd, and_true] using h

/-- In a T word the sum of R overflows (spec R171, R235). -/
theorem etcModeOf_tWord : etcModeOf (tWord [r1, g1, b1] [r2, g2, b2] di sel) = .tMode := by
  obtain ⟨w, hw, -, -, hmode, -, -, -, -, -, -, h56, h58, h59, h61⟩ := tWord_fields (sel := sel) h1 h2 hdi
  have hred := sumOverflows_of_padding _ _ h56 h58 h59 h61
  rw [hw, etcModeOf, if_neg (by omega), if_pos hred]

/-- In an H word the sum of R is in range and that of G overflows (spec R171, R235). -/
theorem etcModeOf_hWord : etcModeOf (hWord [r1, g1, b1] [r2, g2, b2] di sel) = .hMode := by
  obtain ⟨w, hw, -, -, hmode, -, -, -, -, -, h48, h50, h51, h52, h53, h56, h59, h63⟩ :=
    hWord_fields (sel := sel) h1 h2 hdi
  have hred : 0 ≤ diffSum w 56 ∧ diffSum w 56 ≤ 31 := by
    rw [diffSum, field_add w 59 4 1, h56, h59, h63, sext3]
    split_ifs <;> omega
  have hhigh : field w 51 2 = 2 * (g1 % 2) + b1 / 8 := by
    rw [field_add w 51 1 1, h51, h52]
    omega
  have hgreen := sumOverflows_of_padding _ _ h48 h50 hhigh h53
  rw [hw, etcModeOf, if_neg (by omega), if_neg (sumOverflows_of_le hred.1 hred.2), if_pos hgreen]

/-- The colours, the distance index and the selectors of a T word (spec R170, R175). -/
theorem tWord_contents : ∃ w, tWord [r1, g1, b1] [r2, g2, b2] di sel = w ∧ tColour1 w = [r1, g1, b1] ∧
    tColour2 w = [r2, g2, b2] ∧ tDistIndex w = di ∧ field w 0 32 = etcPlanes sel := by
  obtain ⟨w, hw, hplanes, h32, -, h34, h36, h40, h44, h48, h52, h56, -, h59, -⟩ :=
    tWord_fields (sel := sel) h1 h2 hdi
  refine ⟨w, hw, ?_, ?_, ?_, hplanes⟩
  · rw [tColour1, h48, h52, h56, h59, Nat.div_add_mod]
  · rw [tColour2, h36, h40, h44]
  · rw [tDistIndex, h32, h34, Nat.div_add_mod]

/-- The colours and the selectors of an H word, and its distance index when the colours stand in the order its lowest
bit says (spec R170, R176, R234). -/
theorem hWord_contents (horder : colourValue [r1, g1, b1] ≥ colourValue [r2, g2, b2] ↔ di % 2 = 1) :
    ∃ w, hWord [r1, g1, b1] [r2, g2, b2] di sel = w ∧ hColour1 w = [r1, g1, b1] ∧ hColour2 w = [r2, g2, b2] ∧
      hDistIndex w = di ∧ field w 0 32 = etcPlanes sel := by
  obtain ⟨w, hw, hplanes, h32, -, h34, h35, h39, h43, h47, h48, -, h51, h52, -, h56, h59, -⟩ :=
    hWord_fields (sel := sel) h1 h2 hdi
  have hblue : 8 * (b1 / 8) + (b1 % 8 % 2 + 2 ^ 1 * (b1 % 8 / 2)) = b1 := by omega
  have hc1 : hColour1 w = [r1, g1, b1] := by
    rw [hColour1, field_add w 47 1 2, h47, h48, h51, h52, h56, h59, Nat.div_add_mod, hblue]
  have hc2 : hColour2 w = [r2, g2, b2] := by rw [hColour2, h35, h39, h43]
  have hdist : hDistIndex w = di := by
    have hbit : (if colourValue [r1, g1, b1] ≥ colourValue [r2, g2, b2] then 1 else 0) = di % 2 := by
      split_ifs <;> omega
    rw [hDistIndex, hc1, hc2, h32, h34, hbit]
    omega
  exact ⟨w, hw, hc1, hc2, hdist, hplanes⟩

end

end Sys2Proof.Machine
end

section
/-! SUPPORT. A T or H candidate decodes to its paint colours, so its true error is the error it was tried with, and a
candidate that replaces the best one lowers the error (R233 to R236). -/

namespace Sys2Proof.Machine

/-- A colour of three 4-bit fields (spec R175, R176). -/
def FourBitColour (c : Colour) : Prop := ∃ r g b, c = [r, g, b] ∧ r < 16 ∧ g < 16 ∧ b < 16

/-- A word below `2^64` decodes pixel by pixel from the word itself (spec R8, R179). -/
theorem etcDecode_halfOfWord {w : Nat} (h : w < 2 ^ 64) : etcDecode (halfOfWord w) =
    (List.range 16).map (etcPixel w) := by
  rw [etcDecode, wordOf_halfOfWord w h]

/-- A pixel of a T block is the paint colour its selector names (spec R175, R235). -/
theorem etcPixel_tWord {b1 b2 : Colour} {di : Nat} {sel : List Nat} (h1 : FourBitColour b1) (h2 : FourBitColour b2)
    (hdi : di < 8) {i : Nat} (hi : i < 16) (hsel : sel.getD i 0 < 4) : etcPixel (tWord b1 b2 di sel) i =
      pxOf ((tPaint (expand4Colour b1) (expand4Colour b2) (thDist di)).getD (sel.getD i 0) []) 255 := by
  obtain ⟨r1, g1, b1, rfl, h1⟩ := h1
  obtain ⟨r2, g2, b2, rfl, h2⟩ := h2
  obtain ⟨w, hw, hc1, hc2, hdist, hplanes⟩ := tWord_contents (sel := sel) h1 h2 hdi
  have hmode := etcModeOf_tWord (sel := sel) h1 h2 hdi
  rw [hw] at hmode ⊢
  simp only [etcPixel, hmode, paintPixel, hc1, hc2, hdist, etcSel_of_planes hplanes hi hsel]

/-- A pixel of an H block is the paint colour its selector names, when the colours stand in the order the lowest bit of
the distance index says (spec R176, R235). -/
theorem etcPixel_hWord {b1 b2 : Colour} {di : Nat} {sel : List Nat} (h1 : FourBitColour b1) (h2 : FourBitColour b2)
    (hdi : di < 8) (horder : colourValue b1 ≥ colourValue b2 ↔ di % 2 = 1) {i : Nat} (hi : i < 16)
    (hsel : sel.getD i 0 < 4) : etcPixel (hWord b1 b2 di sel) i =
      pxOf ((hPaint (expand4Colour b1) (expand4Colour b2) (thDist di)).getD (sel.getD i 0) []) 255 := by
  obtain ⟨r1, g1, b1, rfl, h1⟩ := h1
  obtain ⟨r2, g2, b2, rfl, h2⟩ := h2
  obtain ⟨w, hw, hc1, hc2, hdist, hplanes⟩ := hWord_contents (sel := sel) h1 h2 hdi horder
  have hmode := etcModeOf_hWord (sel := sel) h1 h2 hdi
  rw [hw] at hmode ⊢
  simp only [etcPixel, hmode, paintPixel, hc1, hc2, hdist, etcSel_of_planes hplanes hi hsel]

/-- A candidate that can be packed: 4-bit colours, a distance index, and for H the order of R176 (spec R234). -/
def CandFits : PaintCand → Prop
  | .t b1 b2 di => FourBitColour b1 ∧ FourBitColour b2 ∧ di < 8
  | .h b1 b2 di => FourBitColour b1 ∧ FourBitColour b2 ∧ di < 8 ∧ (colourValue b1 ≥ colourValue b2 ↔ di % 2 = 1)

/-- The word of a candidate has 64 bits (spec R235). -/
theorem candWord_lt {c : PaintCand} (h : CandFits c) (p : List Colour) : candWord p c < 2 ^ 64 := by
  cases c with
  | t b1 b2 di =>
    obtain ⟨⟨r1, g1, b1, rfl, h1⟩, ⟨r2, g2, b2, rfl, h2⟩, hdi⟩ := h
    exact tWord_lt h1 h2 hdi
  | h b1 b2 di =>
    obtain ⟨⟨r1, g1, b1, rfl, h1⟩, ⟨r2, g2, b2, rfl, h2⟩, hdi, -⟩ := h
    exact hWord_lt h1 h2 hdi

/-- A selector of a paint set is a 2-bit value (spec R233). -/
theorem paintSel_lt (paint : List Colour) (c : Colour) : paintSel paint c < 4 := leastBelow_lt _ (by decide)

/-- The selector of a pixel under a paint set (spec R233). -/
theorem paintSels_getD (paint : List Colour) {p : List Colour} {i : Nat} (hi : i < p.length) :
    (paintSels paint p).getD i 0 = paintSel paint (p.getD i []) := by
  simp [paintSels, hi]

/-- A pixel of a candidate's block is the paint colour the tile's pixel chose (spec R233, R235). -/
theorem etcPixel_candWord {c : PaintCand} (h : CandFits c) {p : List Colour} (hp : p.length = 16) {i : Nat}
    (hi : i < 16) : etcPixel (candWord p c) i =
      pxOf ((candPaint c).getD (paintSel (candPaint c) (p.getD i [])) []) 255 := by
  have hget := paintSels_getD (candPaint c) (hp ▸ hi)
  have hsel : (paintSels (candPaint c) p).getD i 0 < 4 := hget ▸ paintSel_lt _ _
  rw [← hget]
  cases c with
  | t b1 b2 di => exact etcPixel_tWord h.1 h.2.1 h.2.2 hi hsel
  | h b1 b2 di => exact etcPixel_hWord h.1 h.2.1 h.2.2.1 h.2.2.2 hi hsel

/-- The paint colours of a candidate have three channels (spec R175, R176). -/
theorem rgbOf_candPaint {c : PaintCand} (h : CandFits c) {j : Nat} (hj : j < 4) (a : Nat) :
    rgbOf (pxOf ((candPaint c).getD j []) a) = (candPaint c).getD j [] := by
  cases c with
  | t b1 b2 di =>
    obtain ⟨⟨r1, g1, b1, rfl, -⟩, ⟨r2, g2, b2, rfl, -⟩, -⟩ := h
    interval_cases j <;> rfl
  | h b1 b2 di =>
    obtain ⟨⟨r1, g1, b1, rfl, -⟩, ⟨r2, g2, b2, rfl, -⟩, -⟩ := h
    interval_cases j <;> rfl

/-- The true error of a candidate's block is the error it was tried with (spec R233, R235). -/
theorem blockErr_candWord {c : PaintCand} (h : CandFits c) {p : List Colour} (hp : p.length = 16) :
    blockErr (etcDecode (halfOfWord (candWord p c))) p = paintErr (candPaint c) p := by
  have hlist : p = (List.range 16).map fun i => p.getD i [] := (map_range_getD hp []).symm
  have hpixel : ∀ i ∈ List.range 16, sqErr (rgbOf (etcPixel (candWord p c) i)) (p.getD i []) =
      sqErr ((candPaint c).getD (paintSel (candPaint c) (p.getD i [])) []) (p.getD i []) := fun i hi => by
    rw [etcPixel_candWord h hp (List.mem_range.mp hi), rgbOf_candPaint h (paintSel_lt _ _)]
  calc blockErr (etcDecode (halfOfWord (candWord p c))) p
      = ((List.range 16).map fun i => sqErr (rgbOf (etcPixel (candWord p c) i)) (p.getD i [])).sum := by
        rw [etcDecode_halfOfWord (candWord_lt h p), blockErr]
        nth_rw 2 [hlist]
        rw [zipWith_map_range]
    _ = ((List.range 16).map fun i =>
          sqErr ((candPaint c).getD (paintSel (candPaint c) (p.getD i [])) []) (p.getD i [])).sum :=
        congrArg List.sum (List.map_congr_left hpixel)
    _ = paintErr (candPaint c) p := by
        conv_rhs => rw [paintErr, hlist, List.map_map]
        rfl

/-- The best error and block so far belong together: what every trial of R234 keeps. -/
def BestFits (p : List Colour) (best : Nat × Half) : Prop := blockErr (etcDecode best.2) p = best.1

/-- A trial keeps the best error and block together and raises the error never (spec R234). -/
theorem tryPaint_bestFits {p : List Colour} (hp : p.length = 16) {best : Nat × Half} (hbest : BestFits p best)
    {c : PaintCand} (hc : CandFits c) : BestFits p (tryPaint p best c) ∧ (tryPaint p best c).1 ≤ best.1 := by
  unfold tryPaint
  split
  · next hlt => exact ⟨blockErr_candWord hc hp, hlt.le⟩
  · exact ⟨hbest, le_rfl⟩

/-- All trials together keep the best error and block together and raise the error never (spec R234). -/
theorem foldl_tryPaint_bestFits {p : List Colour} (hp : p.length = 16) {cs : List PaintCand}
    (hcs : ∀ c ∈ cs, CandFits c) {best : Nat × Half} (hbest : BestFits p best) :
    BestFits p (cs.foldl (tryPaint p) best) ∧ (cs.foldl (tryPaint p) best).1 ≤ best.1 := by
  induction cs generalizing best with
  | nil => exact ⟨hbest, le_rfl⟩
  | cons c cs ih =>
    obtain ⟨hc, hcs⟩ := List.forall_mem_cons.mp hcs
    obtain ⟨hfits, hle⟩ := tryPaint_bestFits hp hbest hc
    obtain ⟨hall, hle'⟩ := ih hcs hfits
    exact ⟨hall, hle'.trans hle⟩

/-- The colour of a cluster has 4-bit channels (spec R232). -/
theorem clusterColour_fourBit (x : List Colour) : FourBitColour (clusterColour x) :=
  ⟨_, _, _, rfl, quant_lt 4 _, quant_lt 4 _, quant_lt 4 _⟩

/-- The H candidate of a distance index has its colours in the order of R176 (spec R234). -/
theorem hCand_fits {qa qb : Colour} (ha : FourBitColour qa) (hb : FourBitColour qb) {di : Nat} (hdi : di < 8)
    {c : PaintCand} (hc : hCand qa qb di = some c) : CandFits c := by
  unfold hCand at hc
  extract_lets va vb at hc
  split_ifs at hc with heq heven hgt <;> cases hc
  · exact ⟨ha, hb, hdi, by omega⟩
  · exact ⟨ha, hb, hdi, by omega⟩
  · exact ⟨hb, ha, hdi, by omega⟩

/-- Every candidate that is tried can be packed (spec R234). -/
theorem paintCands_fit {qa qb : Colour} (ha : FourBitColour qa) (hb : FourBitColour qb) :
    ∀ c ∈ paintCands qa qb, CandFits c := by
  intro c hc
  simp only [paintCands, tCands, List.mem_append, List.mem_map, List.mem_filterMap, List.mem_range] at hc
  obtain (⟨di, hdi, rfl⟩ | ⟨di, hdi, rfl⟩) | ⟨di, hdi, hh⟩ := hc
  · exact ⟨ha, hb, hdi⟩
  · exact ⟨hb, ha, hdi⟩
  · exact hCand_fits ha hb hdi hh

/-- The reference colour block of ETC2 is never worse than that of ETC1, where the trials begin (spec R234, R236). -/
theorem blockErr_refEncEtc2Rgb_le {p : List Colour} (hp : p.length = 16) (th : Bool) :
    blockErr (etcDecode (refEncEtc2Rgb p th)) p ≤ blockErr (etcDecode (refEncEtc1 p)) p := by
  unfold refEncEtc2Rgb
  extract_lets b
  split_ifs
  · exact le_rfl
  · exact le_rfl
  · obtain ⟨hfits, hle⟩ := foldl_tryPaint_bestFits hp (best := (blockErr (etcDecode b) p, b))
      (paintCands_fit (clusterColour_fourBit (darkCluster p)) (clusterColour_fourBit (brightCluster p))) rfl
    exact hfits.trans_le hle

/-- A tile has sixteen colours (spec R11). -/
@[simp] theorem tileRgb_length (t : TileBuf) : (tileRgb t).length = 16 := by simp [tileRgb]

end Sys2Proof.Machine
end

section
/-! SUPPORT. The words of ETC1 blocks (R172, R173, R229): which mode they have and what they hold. -/

namespace Sys2Proof.Machine

variable {r1 g1 b1 r2 g2 b2 t1 t2 flip : Nat} {sel : List Nat}

/-- The fields of an ETC1 word below its colours, from bit 0 upward (spec R172, R173). -/
def etc1LowFields (diff : Bool) (t1 t2 flip : Nat) (sel : List Nat) : List (Nat × Nat) :=
  [(etcPlanes sel, 32), (flip, 1), (diff.toNat, 1), (t2, 3), (t1, 3)]

/-- The colour fields of individual mode, from bit 40 upward (spec R172). -/
def individualColourFields (r1 g1 b1 r2 g2 b2 : Nat) : List (Nat × Nat) :=
  [(b2, 4), (b1, 4), (g2, 4), (g1, 4), (r2, 4), (r1, 4)]

/-- The 3-bit delta from `q1` to `q2` (spec R173, R229). -/
def storedDelta (q1 q2 : Nat) : Nat := (q2 + 8 - q1 % 8) % 8

/-- The colour fields of differential mode, from bit 40 upward (spec R173). -/
def differentialColourFields (r1 g1 b1 r2 g2 b2 : Nat) : List (Nat × Nat) :=
  [(storedDelta b1 b2, 3), (b1, 5), (storedDelta g1 g2, 3), (g1, 5), (storedDelta r1 r2, 3), (r1, 5)]

/-- A word of individual mode is its fields side by side (spec R172, R229). -/
theorem etc1Word_false_eq_sumFields : etc1Word false [r1, g1, b1] [r2, g2, b2] t1 t2 flip sel =
    sumFields 0 (etc1LowFields false t1 t2 flip sel ++ individualColourFields r1 g1 b1 r2 g2 b2) := by
  simp only [etc1Word, etc1LowFields, individualColourFields, List.cons_append, List.nil_append, sumFields, chan,
    List.getD_cons_zero, List.getD_cons_succ, Bool.false_eq_true, if_false]
  ring

/-- A word of differential mode is its fields side by side (spec R173, R229). -/
theorem etc1Word_true_eq_sumFields : etc1Word true [r1, g1, b1] [r2, g2, b2] t1 t2 flip sel =
    sumFields 0 (etc1LowFields true t1 t2 flip sel ++ differentialColourFields r1 g1 b1 r2 g2 b2) := by
  simp only [etc1Word, etc1LowFields, differentialColourFields, storedDelta, List.cons_append, List.nil_append,
    sumFields, chan, List.getD_cons_zero, List.getD_cons_succ, if_true]
  ring

/-- Two 5-bit values whose difference is a 3-bit delta (spec R173, R226). -/
def DeltaFits (q1 q2 : Nat) : Prop := q1 < 32 ∧ q2 < 32 ∧ q1 ≤ q2 + 4 ∧ q2 ≤ q1 + 3

/-- The sum of a base and its stored delta is the second value (spec R171, R173). -/
theorem diffSum_storedDelta {w lo q1 q2 : Nat} (h : DeltaFits q1 q2) (hdelta : field w lo 3 = storedDelta q1 q2)
    (hbase : field w (lo + 3) 5 = q1) : diffSum w lo = q2 := by
  obtain ⟨-, -, hle, hle'⟩ := h
  rw [diffSum, sext3, hdelta, hbase, storedDelta]
  split_ifs <;> omega

section
variable (ht1 : t1 < 8) (ht2 : t2 < 8) (hflip : flip < 2)
include ht1 ht2 hflip

/-- The values below the colours fit their fields (spec R172, R173). -/
theorem etc1LowFields_fit (diff : Bool) : ∀ f ∈ etc1LowFields diff t1 t2 flip sel, f.1 < 2 ^ f.2 := by
  have hplanes := etcPlanes_lt sel
  have hdiff := Bool.toNat_lt diff
  simp only [etc1LowFields, List.forall_mem_cons]
  exact ⟨hplanes, by omega, by omega, by omega, by omega, List.forall_mem_nil _⟩

/-- A word of two 4-bit colours has 64 bits and is in individual mode (spec R171, R172). -/
theorem etc1Word_false_mode (h1 : r1 < 16 ∧ g1 < 16 ∧ b1 < 16) (h2 : r2 < 16 ∧ g2 < 16 ∧ b2 < 16) :
    etc1Word false [r1, g1, b1] [r2, g2, b2] t1 t2 flip sel < 2 ^ 64 ∧
      etcModeOf (etc1Word false [r1, g1, b1] [r2, g2, b2] t1 t2 flip sel) = .individual := by
  have hcolours : ∀ f ∈ individualColourFields r1 g1 b1 r2 g2 b2, f.1 < 2 ^ f.2 := by
    simp only [individualColourFields, List.forall_mem_cons]
    exact ⟨by omega, by omega, by omega, by omega, by omega, by omega, List.forall_mem_nil _⟩
  have hfit := List.forall_mem_append.mpr ⟨etc1LowFields_fit (sel := sel) ht1 ht2 hflip false, hcolours⟩
  have hfields := fieldsAt_sumFields hfit
  rw [etc1Word_false_eq_sumFields]
  refine ⟨sumFields_lt hfit ?_, ?_⟩
  · simp only [etc1LowFields, individualColourFields, List.cons_append, List.nil_append, List.map_cons, List.map_nil,
      List.sum_cons, List.sum_nil, Nat.reduceAdd]
  · obtain ⟨-, -, hmode, -⟩ := hfields
    exact if_pos hmode

/-- What a word of two 5-bit colours and their deltas holds: it has 64 bits and is in differential mode (spec R171,
R173). -/
theorem etc1Word_true_contents (hr : DeltaFits r1 r2) (hg : DeltaFits g1 g2) (hb : DeltaFits b1 b2) :
    ∃ w, etc1Word true [r1, g1, b1] [r2, g2, b2] t1 t2 flip sel = w ∧ w < 2 ^ 64 ∧ etcModeOf w = .differential ∧
      (∀ s, differentialBase w s = if s = 0 then [expand 5 r1, expand 5 g1, expand 5 b1]
        else [expand 5 r2, expand 5 g2, expand 5 b2]) ∧
      (∀ s, etcTable w s = if s = 0 then t1 else t2) ∧ field w 32 1 = flip ∧ field w 0 32 = etcPlanes sel := by
  have hdelta : ∀ q1 q2, storedDelta q1 q2 < 2 ^ 3 := fun q1 q2 => Nat.mod_lt _ (by decide)
  have hcolours : ∀ f ∈ differentialColourFields r1 g1 b1 r2 g2 b2, f.1 < 2 ^ f.2 := by
    simp only [differentialColourFields, List.forall_mem_cons]
    exact ⟨hdelta _ _, hb.1, hdelta _ _, hg.1, hdelta _ _, hr.1, List.forall_mem_nil _⟩
  have hfit := List.forall_mem_append.mpr ⟨etc1LowFields_fit (sel := sel) ht1 ht2 hflip true, hcolours⟩
  have hfields := fieldsAt_sumFields hfit
  have hlt := sumFields_lt hfit (n := 64) (by
    simp only [etc1LowFields, differentialColourFields, List.cons_append, List.nil_append, List.map_cons, List.map_nil,
      List.sum_cons, List.sum_nil, Nat.reduceAdd])
  refine ⟨_, etc1Word_true_eq_sumFields, hlt, ?_⟩
  generalize sumFields 0 _ = w at hfields
  simp only [etc1LowFields, differentialColourFields, List.cons_append, List.nil_append, FieldsAt, Nat.reduceAdd,
    and_true] at hfields
  obtain ⟨hplanes, h32, h33, h34, h37, h40, h43, h48, h51, h56, h59⟩ := hfields
  have hsumR := diffSum_storedDelta hr h56 h59
  have hsumG := diffSum_storedDelta hg h48 h51
  have hsumB := diffSum_storedDelta hb h40 h43
  have hin : ∀ {q1 q2 : Nat}, DeltaFits q1 q2 → ¬sumOverflows (q2 : Int) = true := fun ⟨_, hlt, _⟩ =>
    sumOverflows_of_le (by omega) (by omega)
  refine ⟨?_, fun s => ?_, fun s => ?_, h32, hplanes⟩
  · rw [etcModeOf, h33, hsumR, hsumG, hsumB, if_neg (by decide), if_neg (hin hr), if_neg (hin hg), if_neg (hin hb)]
  · rw [differentialBase, h59, h51, h43, hsumR, hsumG, hsumB, Int.toNat_natCast, Int.toNat_natCast, Int.toNat_natCast]
  · rw [etcTable, h37, h34]

end

end Sys2Proof.Machine
end

section
/-! SUPPORT. The reference encoder of ETC1 (R225 to R230): whatever it stores fits the fields of its mode, so its block
is a valid ETC1 block; and how its solid path decodes. -/

namespace Sys2Proof.Machine

/-- Two stored base colours that fit the fields of their mode, individual or differential (spec R172, R173, R226). -/
inductive BasesFit : Bool → Colour → Colour → Prop
  | individual {q1 q2 : Colour} (h1 : FourBitColour q1) (h2 : FourBitColour q2) : BasesFit false q1 q2
  | differential {r1 g1 b1 r2 g2 b2 : Nat} (hr : DeltaFits r1 r2) (hg : DeltaFits g1 g2) (hb : DeltaFits b1 b2) :
      BasesFit true [r1, g1, b1] [r2, g2, b2]

/-- A word of base colours that fit their mode has that mode, so its block is a valid ETC1 block (spec R178). -/
theorem validEtc1_etc1Word {diff : Bool} {q1 q2 : Colour} (h : BasesFit diff q1 q2) {t1 t2 flip : Nat} (ht1 : t1 < 8)
    (ht2 : t2 < 8) (hflip : flip < 2) (sel : List Nat) :
    validEtc1 (halfOfWord (etc1Word diff q1 q2 t1 t2 flip sel)) = true := by
  cases h with
  | individual h1 h2 =>
    obtain ⟨r1, g1, b1, rfl, h1⟩ := h1
    obtain ⟨r2, g2, b2, rfl, h2⟩ := h2
    obtain ⟨hlt, hmode⟩ := etc1Word_false_mode (sel := sel) ht1 ht2 hflip h1 h2
    rw [validEtc1, wordOf_halfOfWord _ hlt, hmode]
  | differential hr hg hb =>
    obtain ⟨w, hw, hlt, hmode, -⟩ := etc1Word_true_contents (sel := sel) ht1 ht2 hflip hr hg hb
    rw [hw, validEtc1, wordOf_halfOfWord _ hlt, hmode]

/-- Clamping the second value to a 3-bit delta of the first makes the pair fit (spec R226). -/
theorem deltaFits_clampDelta {q1 q2 : Nat} (h1 : q1 < 32) (h2 : q2 < 32) : DeltaFits q1 (clampDelta q1 q2) := by
  unfold DeltaFits clampDelta clamp
  split_ifs <;> omega

/-- A base colour and no delta (spec R230). -/
theorem deltaFits_self {q : Nat} (h : q < 32) : DeltaFits q q := ⟨h, h, by omega, by omega⟩

/-- The candidates' flip is a bit and their base colours fit their mode (spec R226). -/
theorem etcCand_fits (p : List Colour) {k : Nat} (hk : k < 4) :
    (etcCand p k).flip < 2 ∧ BasesFit (etcCand p k).diff (etcCand p k).q1 (etcCand p k).q2 := by
  have hflip : k / 2 < 2 := by omega
  unfold etcCand
  extract_lets flip a0 a1 q1 q2 q1' q2'
  split_ifs
  · exact ⟨hflip, .individual ⟨_, _, _, rfl, quant_lt 4 _, quant_lt 4 _, quant_lt 4 _⟩
      ⟨_, _, _, rfl, quant_lt 4 _, quant_lt 4 _, quant_lt 4 _⟩⟩
  · exact ⟨hflip, .differential (deltaFits_clampDelta (quant_lt 5 _) (quant_lt 5 _))
      (deltaFits_clampDelta (quant_lt 5 _) (quant_lt 5 _)) (deltaFits_clampDelta (quant_lt 5 _) (quant_lt 5 _))⟩

/-- The chosen candidate is one of the four (spec R227). -/
theorem bestCand_fits (p : List Colour) :
    (bestCand p).flip < 2 ∧ BasesFit (bestCand p).diff (bestCand p).q1 (bestCand p).q2 := by
  have hmem : bestCand p ∈ (List.range 4).map (etcCand p) := leastBy_mem _ _ (List.cons_ne_nil _ _)
  obtain ⟨k, hk, heq⟩ := List.mem_map.mp hmem
  exact heq ▸ etcCand_fits p (List.mem_range.mp hk)

/-- A table is one of eight (spec R228). -/
theorem bestTable_lt (ls : List Int) : bestTable ls < 8 := leastBelow_lt _ (by decide)

/-- The base of the solid path is a 5-bit field (spec R230). -/
theorem etcSolidQuant_lt (v : Nat) : etcSolidQuant v < 32 := leastBelow_lt _ (by decide)

/-- No other base of the solid path is nearer (spec R230). -/
theorem etcSolidQuant_le (v : Nat) {q : Nat} (hq : q < 32) :
    absDiff (clamp255 ((expand 5 (etcSolidQuant v) : Int) + 2)) v ≤ absDiff (clamp255 ((expand 5 q : Int) + 2)) v :=
  leastBelow_le (fun q => absDiff (clamp255 ((expand 5 q : Int) + etcMod 0 0)) v) hq

/-- Clamping a natural number to a channel value (spec R10). -/
theorem clamp255_natCast (n : Nat) : clamp255 (n : Int) = min n 255 := by
  unfold clamp255 clamp
  split_ifs <;> omega

/-- The value of a 5-bit base with the modifier 2 (spec R10, R230). -/
theorem clamp255_expand_five (q : Nat) : clamp255 ((expand 5 q : Int) + 2) = min (8 * q + q / 4 + 2) 255 := by
  rw [← clamp255_natCast, expand, if_neg (by decide)]
  congr 1
  omega

/-- The base of the solid path comes within 4 of every channel value: four bases, 8 apart, span 33 values
(spec R223, R230). -/
theorem etcSolidQuant_near {v : Nat} (hv : v < 256) :
    absDiff (clamp255 ((expand 5 (etcSolidQuant v) : Int) + 2)) v ≤ 4 := by
  refine (etcSolidQuant_le v (q := 4 * (v / 33) + (v % 33 + 1) / 8) (by omega)).trans ?_
  rw [clamp255_expand_five, absDiff]
  omega

/-- The reference ETC1 block of a tile is a valid ETC1 block (spec R178, R224, R230). -/
theorem validEtc1_refEncEtc1 {p : List Colour} (hp : ∃ r g b, pixelAt p 0 = [r, g, b]) :
    validEtc1 (refEncEtc1 p) = true := by
  unfold refEncEtc1
  extract_lets q c diffOf t0 t1 sel
  split_ifs
  · obtain ⟨r, g, b, heq⟩ := hp
    have hq : q = [etcSolidQuant r, etcSolidQuant g, etcSolidQuant b] := congrArg (List.map etcSolidQuant) heq
    rw [hq]
    exact validEtc1_etc1Word (.differential (deltaFits_self (etcSolidQuant_lt r)) (deltaFits_self (etcSolidQuant_lt g))
      (deltaFits_self (etcSolidQuant_lt b))) (by decide) (by decide) (by decide) _
  · obtain ⟨hflip, hbases⟩ := bestCand_fits p
    exact validEtc1_etc1Word hbases (bestTable_lt _) (bestTable_lt _) hflip sel

/-- A block is a valid ETC1 block when it is in individual or differential mode (spec R178). -/
theorem validEtc1_iff (h : Half) :
    validEtc1 h = true ↔ etcModeOf (wordOf h) = .individual ∨ etcModeOf (wordOf h) = .differential := by
  unfold validEtc1
  cases etcModeOf (wordOf h) <;> decide

/-- The reference block of the source's scenario decodes brighter above than below (spec R224). -/
theorem topBrighter_refEncEtc1 : topBrighter (etcDecode (refEncEtc1 splitTile)) = true := by decide +kernel

/-- In every column the decoded luma of the top row exceeds that of the bottom row (spec R224). -/
theorem lumaOf_lt_of_topBrighter {h : Half} (htop : topBrighter (etcDecode h) = true) {x : Nat} (hx : x < 4) :
    lumaOf (rgbOf (etcPixel (wordOf h) (12 + x))) < lumaOf (rgbOf (etcPixel (wordOf h) x)) := by
  have hpixel : ∀ i < 16, (etcDecode h).getD i default = etcPixel (wordOf h) i := fun i hi => by
    rw [List.getD_eq_getElem _ _ (by simpa using hi), etcDecode_getElem h i hi]
  have hcolumn := List.all_eq_true.mp htop x (List.mem_range.mpr hx)
  simpa only [hpixel x (by omega), hpixel (12 + x) (by omega), decide_eq_true_eq] using hcolumn

/-- The tile of the source's scenario, pixel by pixel (spec R224). -/
theorem tileRgb_eq_splitTile {t : TileBuf}
    (h : ∀ i < 16, rgbOf (tilePx t i) = if i < 8 then [255, 255, 255] else [0, 0, 0]) : tileRgb t = splitTile := by
  rw [tileRgb, tilePixels, List.map_map]
  exact List.map_congr_left fun i hi => h i (List.mem_range.mp hi)

/-- A channel every pixel of the tile has alike (spec R221). -/
theorem map_tilePixels_eq_replicate {α : Type} {f : Px → α} {t : TileBuf} {v : α}
    (h : ∀ i < 16, f (tilePx t i) = v) : (tilePixels t).map f = List.replicate 16 v := by
  rw [List.eq_replicate_iff, tilePixels, List.map_map]
  refine ⟨by simp, fun x hx => ?_⟩
  obtain ⟨i, hi, rfl⟩ := List.mem_map.mp hx
  exact h i (List.mem_range.mp hi)

/-- A list of one value is solid (spec R221). -/
theorem solid_replicate {α : Type} [DecidableEq α] (n : Nat) (v : α) : solid (List.replicate n v) = true := by
  cases n with
  | zero => rfl
  | succ n => simp [solid, List.replicate_succ]

/-- A pixel of the reference ETC1 block of a solid tile: the base of each channel with the modifier 2 (spec R230,
R174). -/
theorem etcPixel_refEncEtc1_solid (r g b : Nat) {i : Nat} (hi : i < 16) :
    etcPixel (wordOf (refEncEtc1 (List.replicate 16 [r, g, b]))) i =
      pxOf ([etcSolidQuant r, etcSolidQuant g, etcSolidQuant b].map fun q =>
        clamp255 ((expand 5 q : Int) + 2)) 255 := by
  obtain ⟨w, hw, hlt, hmode, hbase, htable, -, hplanes⟩ :=
    etc1Word_true_contents (t1 := 0) (t2 := 0) (flip := 0) (sel := []) (by decide) (by decide) (by decide)
      (deltaFits_self (etcSolidQuant_lt r)) (deltaFits_self (etcSolidQuant_lt g)) (deltaFits_self (etcSolidQuant_lt b))
  have hblock : refEncEtc1 (List.replicate 16 [r, g, b]) = halfOfWord w :=
    (if_pos (solid_replicate 16 [r, g, b])).trans (congrArg halfOfWord hw)
  have hsel : etcSel w i = 0 := etcSel_of_planes hplanes hi (Nat.zero_lt_succ 3)
  have hpixel : etcPixel w i = etc1Pixel w (differentialBase w) i := by rw [etcPixel, hmode]
  rw [hblock, wordOf_halfOfWord _ hlt, hpixel, etc1Pixel, hbase, htable, hsel, ite_self, ite_self]
  rfl

end Sys2Proof.Machine
end

section
/-! SUPPORT. The EAC block of a channel of one value: the value as base, all indices 0 (R181, R182, R238). -/

namespace Sys2Proof.Machine

/-- The fields below a number's last 1 are 0 (spec R8). -/
theorem field_mul_two_pow {v n o w : Nat} (h : o + w ≤ n) : field (v * 2 ^ n) o w = 0 := by
  obtain ⟨k, rfl⟩ := Nat.exists_eq_add_of_le h
  have hsplit : v * 2 ^ (o + w + k) = 2 ^ o * (2 ^ w * (v * 2 ^ k)) := by rw [Nat.pow_add, Nat.pow_add]; ring
  rw [field, hsplit, Nat.mul_div_cancel_left _ (Nat.two_pow_pos o), Nat.mul_mod_right]

/-- The EAC word of a base alone (spec R240). -/
theorem eacWord_base (v : Nat) : eacWord v 0 0 [] = v * 2 ^ 56 := by
  simp [eacWord]

/-- The reference EAC block of sixteen equal values reads back as the value in both views: modifier -3 at multiplier 0
leaves the 8-bit value alone and takes 3 of 8 from the 11-bit one's middle (spec R181, R182, R238). -/
theorem refEncEac_solid {v : Nat} (hv : v < 256) :
    eac8Decode (refEncEac (List.replicate 16 v)) = List.replicate 16 v ∧
      eac11View8 (refEncEac (List.replicate 16 v)) = List.replicate 16 v := by
  have hblock : refEncEac (List.replicate 16 v) = halfOfWord (v * 2 ^ 56) :=
    (if_pos (solid_replicate 16 v)).trans (congrArg halfOfWord (eacWord_base v))
  have hword : wordOf (refEncEac (List.replicate 16 v)) = v * 2 ^ 56 := by
    rw [hblock, wordOf_halfOfWord _ (by omega)]
  have hbase : field (v * 2 ^ 56) 56 8 = v := by
    rw [field, Nat.mul_div_cancel _ (Nat.two_pow_pos 56)]
    exact Nat.mod_eq_of_lt hv
  have hidx : ∀ i, eacIdx (v * 2 ^ 56) i = 0 := fun i => field_mul_two_pow (by omega)
  have h8 : eac8Value v 0 0 0 = v := by
    have hsum : (v : Int) + (0 : Nat) * eacMod 0 0 = v := by omega
    rw [eac8Value, hsum, clamp255_natCast, Nat.min_eq_left (by omega)]
  have h11 : eac11Value v 0 0 0 / 8 = v := by
    have hmod : eacMod 0 0 = -3 := rfl
    rw [eac11Value, hmod, if_neg (by decide), clamp]
    split_ifs <;> omega
  refine ⟨?_, ?_⟩
  · simp only [eac8Decode, hword, hbase, hidx, field_mul_two_pow (show 52 + 4 ≤ 56 by decide),
      field_mul_two_pow (show 48 + 4 ≤ 56 by decide), h8, List.map_const', List.length_range]
  · simp only [eac11View8, eac11Decode, hword, hbase, hidx, field_mul_two_pow (show 52 + 4 ≤ 56 by decide),
      field_mul_two_pow (show 48 + 4 ≤ 56 by decide), List.map_const', List.length_range, List.map_replicate, h11]

/-- An EAC block is the reference's or meets the contract (spec R238, log 10). -/
theorem encEac_cases (k : EncoderKind) (fmt : Fmt) (vs : List Nat) :
    encEac k fmt vs = refEncEac vs ∨ eacContract vs (encEac k fmt vs) = true :=
  match k with
  | .reference => .inl rfl
  | .abstract => freeOr_cases _ _

/-- The reference encoder's or an abstract encoder's EAC block of sixteen equal values reads back as the value in both
views (spec R238). -/
theorem encEac_solid (k : EncoderKind) (fmt : Fmt) {v : Nat} (hv : v < 256) :
    eac8Decode (encEac k fmt (List.replicate 16 v)) = List.replicate 16 v ∧
      eac11View8 (encEac k fmt (List.replicate 16 v)) = List.replicate 16 v := by
  rcases encEac_cases k fmt (List.replicate 16 v) with href | hcontract
  · rw [href]
    exact refEncEac_solid hv
  · rw [eacContract, solid_replicate] at hcontract
    simpa only [Bool.not_true, Bool.false_or, Bool.and_eq_true, beq_iff_eq] using hcontract

end Sys2Proof.Machine
end

section
/-! SUPPORT. What a command leaves in `BLK`, and the colour encoder of ETC2 without its T and H modes (R22, R231). -/

namespace Sys2Proof.Machine

/-- The `BLK` of the executing lane in the state an outcome leaves, if it is a next state (spec R22, R330). -/
def blkAfter : Host.Outcome State Fault Refusal → Option Block
  | .next t => (curLane t).map Lane.blk
  | .fault _ => none
  | .refused _ => none

/-- After a command that replaces the executing lane, `BLK` is the new lane's. -/
theorem blkAfter_putLane {s : State} {l : Lane} (h : Running s l) (l' : Lane) :
    blkAfter (.next (putLane s l')) = some l'.blk := by
  rw [blkAfter, curLane_putLane h.1, Option.map_some]

/-- Without T and H mode a colour block of ETC2 is the block of `enc_etc1` (spec R231). -/
theorem encEtc2Rgb_false (k : EncoderKind) (fmt : Fmt) (p : List Colour) : encEtc2Rgb k fmt p false = encEtc1 k p := by
  cases k with
  | reference => rw [encEtc2Rgb, refEncEtc2Rgb, if_pos (.inl rfl), encEtc1]
  | abstract => rw [encEtc2Rgb, if_neg Bool.false_ne_true]

end Sys2Proof.Machine
end

section
/-! The obligations of the ETC encoder family (45_encoders_etc.md), and the frames of all encoders but `ENC.BC7`
(R220). -/

namespace Sys2Proof.Machine

/-- Settles O34: on a running lane each of the five commands is the one write its body makes. -/
theorem encodersOf64BitFormats : Obligations.EncodersOf64BitFormats := by
  unfold Obligations.EncodersOf64BitFormats
  exact fun s l h => ⟨runCommand_running h _, runCommand_running h _, runCommand_running h _, runCommand_running h _,
    runCommand_running h _⟩

/-- Settles O35: on a running lane each of the four commands is the one write its body makes. -/
theorem encodersOf128BitFormats : Obligations.EncodersOf128BitFormats := by
  unfold Obligations.EncodersOf128BitFormats
  exact fun s l h => ⟨runCommand_running h _, runCommand_running h _, runCommand_running h _, runCommand_running h _⟩

/-- Settles O36: each block is a function of the parameters, the channels and the options R71 lists for its command. -/
theorem blocksDependOnlyOnUsedChannels : Obligations.BlocksDependOnlyOnUsedChannels := by
  unfold Obligations.BlocksDependOnlyOnUsedChannels
  intro s s' l l' hrun hrun' hparams lowAfter allAfter
  have hlow : ∀ i s, lowAfter i s = (blkAfter (exec i s)).map lowHalf := fun i s => by
    simp only [lowAfter]
    cases exec i s with
    | next t => exact Option.map_map .. |>.symm
    | fault r => rfl
    | refused r => rfl
  have hall : ∀ i s, allAfter i s = blkAfter (exec i s) := fun i s => by
    simp only [allAfter]
    cases exec i s <;> rfl
  have hafter := blkAfter_putLane hrun
  have hafter' := blkAfter_putLane hrun'
  obtain ⟨etc1, etc2Rgb, r11, bc1, bc4⟩ := encodersOf64BitFormats s l hrun
  obtain ⟨etc1', etc2Rgb', r11', bc1', bc4'⟩ := encodersOf64BitFormats s' l' hrun'
  obtain ⟨rgba, rg11, bc3, bc5⟩ := encodersOf128BitFormats s l hrun
  obtain ⟨rgba', rg11', bc3', bc5'⟩ := encodersOf128BitFormats s' l' hrun'
  simp only [hlow, hall]
  refine ⟨fun hrgb => ⟨?_, ?_, fun hth => ?_, fun hdither => ?_⟩, fun hr => ⟨?_, ?_⟩, fun hr hg => ⟨?_, ?_⟩,
    fun htile => ⟨fun hth => ?_, fun hdither => ?_, ?_⟩⟩
  · simp [etc1, etc1', hafter, hafter', hparams, hrgb]
  · simp [etc1, hafter]
  · simp [etc2Rgb, etc2Rgb', hafter, hafter', hparams, hrgb, hth]
  · simp [bc1, bc1', hafter, hafter', hparams, hrgb, hdither]
  · simp [r11, r11', hafter, hafter', hparams, hr]
  · simp [bc4, bc4', hafter, hafter', hparams, hr]
  · rw [rg11, rg11', hafter, hafter', hparams, hr, hg]
  · rw [bc5, bc5', hafter, hafter', hparams, hr, hg]
  · rw [rgba, rgba', hafter, hafter', hparams, htile, hth]
  · rw [bc3, bc3', hafter, hafter', hparams, htile, hdither]
  · intro hready hready' hopt1 hopt7 hprune heffort hmaxPart hw1 hw5 hw6 hw7
    have hargs : searchArgs s l = searchArgs s' l' := by
      simp only [searchArgs, htile, hopt1, hopt7, hprune, heffort, hmaxPart, hw1, hw5, hw6, hw7]
    rw [exec_encBc7_ready hrun hready, exec_encBc7_ready hrun' hready', hafter, hafter', laneWithBlock_blk,
      laneWithBlock_blk, hparams, hargs]

/-- Settles O40: the two commands make the same write, for their blocks are the same. -/
theorem etc2WithoutTHEqualsEtc1 : Obligations.Etc2WithoutTHEqualsEtc1 := by
  unfold Obligations.Etc2WithoutTHEqualsEtc1
  intro s l h hth
  obtain ⟨etc1, etc2Rgb, -⟩ := encodersOf64BitFormats s l h
  rw [etc1, etc2Rgb, hth, encEtc2Rgb_false]

/-- Settles O41: the fields of both words read back, so their mode is the padded one and each selector names its paint
colour. -/
theorem paintBlocksDecodeToTheirPaint : Obligations.PaintBlocksDecodeToTheirPaint := by
  unfold Obligations.PaintBlocksDecodeToTheirPaint
  intro r1 g1 b1 r2 g2 b2 di sel hr1 hg1 hb1 hr2 hg2 hb2 hdi _ hsel
  have hsel' : ∀ i, sel.getD i 0 < 4 := getD_of_forall_mem hsel (by decide)
  have h1 := And.intro hr1 (And.intro hg1 hb1)
  have h2 := And.intro hr2 (And.intro hg2 hb2)
  have hc1 : FourBitColour [r1, g1, b1] := ⟨_, _, _, rfl, h1⟩
  have hc2 : FourBitColour [r2, g2, b2] := ⟨_, _, _, rfl, h2⟩
  rw [← expand4Colour_rgb, ← expand4Colour_rgb]
  exact ⟨⟨tWord_lt h1 h2 hdi, etcModeOf_tWord h1 h2 hdi, fun i hi => etcPixel_tWord hc1 hc2 hdi hi (hsel' i)⟩,
    fun horder => ⟨hWord_lt h1 h2 hdi, etcModeOf_hWord h1 h2 hdi,
      fun i hi => etcPixel_hWord hc1 hc2 hdi horder hi (hsel' i)⟩⟩

/-- Settles O42: the trials of the T and H candidates begin with the ETC1 block and only ever lower the error. -/
theorem etc2NeverWorseThanEtc1 : Obligations.Etc2NeverWorseThanEtc1 := by
  unfold Obligations.Etc2NeverWorseThanEtc1
  intro s l h href
  obtain ⟨etc1, etc2Rgb, -⟩ := encodersOf64BitFormats s l h
  rw [href] at etc1 etc2Rgb
  exact ⟨_, _, etc1, etc2Rgb, blockErr_refEncEtc2Rgb_le (tileRgb_length l.tile) (ctrlEtc2Th l.ctrl)⟩

/-- Settles O38: the reference block is valid because its stored colours fit their mode, and an abstract one because
the contract asks it; the scenario is one evaluation or the contract. -/
theorem etc1BlockIsValid : Obligations.Etc1BlockIsValid := by
  unfold Obligations.Etc1BlockIsValid
  intro s l h
  obtain ⟨etc1, -⟩ := encodersOf64BitFormats s l h
  refine ⟨_, etc1, ?_, fun htile x hx => lumaOf_lt_of_topBrighter ?_ hx⟩
  · rw [← validEtc1_iff]
    rcases encEtc1_cases s.params.encoder (tileRgb l.tile) with href | hcontract
    · rw [href]
      exact validEtc1_refEncEtc1 ⟨_, _, _, rfl⟩
    · exact (Bool.and_eq_true_iff.mp hcontract).1
  · rw [tileRgb_eq_splitTile htile]
    rcases encEtc1_cases s.params.encoder splitTile with href | hcontract
    · rw [href]
      exact topBrighter_refEncEtc1
    · simpa using (Bool.and_eq_true_iff.mp hcontract).2

/-- Settles O39: the solid path stores the nearest base of each channel, and every channel value has a base within 4. -/
theorem etc1SolidTileWithinFour : Obligations.Etc1SolidTileWithinFour := by
  unfold Obligations.Etc1SolidTileWithinFour
  intro s l r g b h href htile
  obtain ⟨etc1, -⟩ := encodersOf64BitFormats s l h
  have hrgb : tileRgb l.tile = List.replicate 16 [r, g, b] := map_tilePixels_eq_replicate htile
  have hrange : ∀ ch < 3, chan [r, g, b] ch < 256 := fun ch hch => by
    obtain ⟨hr, hg, hb, -⟩ := tilePx_inRange l.tile 0
    rw [← htile 0 (by decide)]
    interval_cases ch
    · exact hr
    · exact hg
    · exact hb
  rw [href, hrgb] at etc1
  refine ⟨_, [r, g, b].map etcSolidQuant, etc1, rfl, fun ch hch => ?_, fun i hi => ⟨etcPixel_a _ _, fun ch hch => ?_⟩⟩
  · interval_cases ch <;> exact etcSolidQuant_lt _
  · have hpixel : chan (rgbOf (etcPixel (wordOf (encEtc1 .reference (List.replicate 16 [r, g, b]))) i)) ch =
        clamp255 ((expand 5 (etcSolidQuant (chan [r, g, b] ch)) : Int) + 2) := by
      rw [encEtc1, etcPixel_refEncEtc1_solid r g b hi]
      interval_cases ch <;> rfl
    have hquant : ([r, g, b].map etcSolidQuant).getD ch 0 = etcSolidQuant (chan [r, g, b] ch) := by
      interval_cases ch <;> rfl
    rw [hpixel, hquant]
    exact ⟨rfl, etcSolidQuant_near (hrange ch hch), fun q hq => etcSolidQuant_le _ hq⟩

/-- Settles O43: sixteen equal values read back from the EAC block of either encoder, in either half of a block. -/
theorem eacSolidRoundTrip : Obligations.EacSolidRoundTrip := by
  unfold Obligations.EacSolidRoundTrip
  intro s l v w h
  obtain ⟨-, -, r11, -⟩ := encodersOf64BitFormats s l h
  obtain ⟨rgba, rg11, -⟩ := encodersOf128BitFormats s l h
  obtain ⟨hrlt, hglt, -, halt⟩ := tilePx_inRange l.tile 0
  refine ⟨fun hr => ?_, fun hrg => ?_, fun ha => ?_⟩
  · have htile : tileR l.tile = List.replicate 16 v := map_tilePixels_eq_replicate hr
    rw [htile] at r11
    exact ⟨_, r11, encEac_solid _ _ (hr 0 (by decide) ▸ hrlt)⟩
  · obtain ⟨hr0, hg0⟩ := hrg 0 (by decide)
    have htileR : tileR l.tile = List.replicate 16 v := map_tilePixels_eq_replicate fun i hi => (hrg i hi).1
    have htileG : tileG l.tile = List.replicate 16 w := map_tilePixels_eq_replicate fun i hi => (hrg i hi).2
    obtain ⟨h8, h11⟩ := encEac_solid s.params.encoder .etc2Rg11 (hr0 ▸ hrlt)
    obtain ⟨h8', h11'⟩ := encEac_solid s.params.encoder .etc2Rg11 (hg0 ▸ hglt)
    rw [htileR, htileG] at rg11
    exact ⟨_, _, rg11, h8, h11, h8', h11'⟩
  · have htile : tileA l.tile = List.replicate 16 v := map_tilePixels_eq_replicate ha
    obtain ⟨h8, h11⟩ := encEac_solid s.params.encoder .etc2Rgba (ha 0 (by decide) ▸ halt)
    rw [htile] at rgba
    exact ⟨_, _, rgba, h8, h11, etc2RgbaDecode_solid _ _ v h8⟩

end Sys2Proof.Machine
end

section
/-! SUPPORT. The fields of a packed BC1 or BC4 block read back (R140, R142), and what the blocks decode to (R153). -/

namespace Sys2Proof.Machine

/-- Two endpoints and sixteen selectors that fit their fields read back from the half they fill (spec R140, R142). -/
theorem getField_packFields_endpoints {a w e0 e1 : Nat} {sel : List Nat} (hsum : a + (a + w * 16) = 64)
    (h0 : e0 < 2 ^ a) (h1 : e1 < 2 ^ a) (hsel : ∀ i, sel.getD i 0 < 2 ^ w) {h : Half}
    (hh : h = BitVec.ofNat 64 (packFields ([(e0, a), (e1, a)] ++ (List.range 16).map fun i => (sel.getD i 0, w)))) :
    getField h 0 a = e0 ∧ getField h a a = e1 ∧ ∀ i < 16, getField h (a + a + w * i) w = sel.getD i 0 := by
  subst hh
  generalize hfs : [(e0, a), (e1, a)] ++ (List.range 16).map (fun i => (sel.getD i 0, w)) = fs
  have hsnd : fs.map Prod.snd = a :: a :: List.replicate 16 w := by simp [← hfs, Function.comp_def]
  have hfst : fs.map Prod.fst = e0 :: e1 :: (List.range 16).map fun i => sel.getD i 0 := by
    simp [← hfs, Function.comp_def]
  have hfit : ∀ f ∈ fs, f.1 < 2 ^ f.2 := by
    simpa [← hfs, h0, h1] using fun i _ => hsel i
  have hlt : packFields fs < 2 ^ 64 := by
    have h := packFields_lt fs
    rw [hsnd, List.sum_cons, List.sum_cons, List.sum_replicate, smul_eq_mul, Nat.mul_comm, hsum] at h
    exact h
  have hfield : ∀ k, getField (BitVec.ofNat 64 (packFields fs)) ((fs.map Prod.snd).take k).sum
      ((fs.map Prod.snd).getD k 0) = (fs.map Prod.fst).getD k 0 := fun k => by
    rw [← field_packFields hfit, getField, BitVec.toNat_ofNat, Nat.mod_eq_of_lt hlt, field]
  rw [hsnd, hfst] at hfield
  refine ⟨hfield 0, hfield 1, fun i hi => ?_⟩
  have hi' := hfield (i + 2)
  rwa [List.take_succ_cons, List.take_succ_cons, List.sum_cons, List.sum_cons, List.take_replicate,
    Nat.min_eq_left hi.le, List.sum_replicate, smul_eq_mul, List.getD_cons_succ, List.getD_cons_succ,
    List.getD_replicate _ hi, List.getD_cons_succ, List.getD_cons_succ, getD_map_range _ (List.mem_range.mpr hi),
    ← Nat.add_assoc, Nat.mul_comm] at hi'

/-- The fields of a packed BC1 block (spec R140). -/
theorem fields_packBc1 {c0 c1 : Nat} {sel : List Nat} (h0 : c0 < 2 ^ 16) (h1 : c1 < 2 ^ 16)
    (hsel : ∀ i, sel.getD i 0 < 2 ^ 2) : bc1C0 (packBc1 c0 c1 sel) = c0 ∧ bc1C1 (packBc1 c0 c1 sel) = c1 ∧
      ∀ i < 16, bc1Sel (packBc1 c0 c1 sel) i = sel.getD i 0 :=
  getField_packFields_endpoints (a := 16) (w := 2) rfl h0 h1 hsel rfl

/-- The fields of a packed BC4 block (spec R142). -/
theorem fields_packBc4 {e0 e1 : Nat} {idx : List Nat} (h0 : e0 < 2 ^ 8) (h1 : e1 < 2 ^ 8)
    (hidx : ∀ i, idx.getD i 0 < 2 ^ 3) : bc4E0 (packBc4 e0 e1 idx) = e0 ∧ bc4E1 (packBc4 e0 e1 idx) = e1 ∧
      ∀ i < 16, bc4Idx (packBc4 e0 e1 idx) i = idx.getD i 0 :=
  getField_packFields_endpoints (a := 8) (w := 3) rfl h0 h1 hidx rfl

/-- A packed BC1 block decodes to the palette colours its selectors name (spec R153). -/
theorem bc1Decode_packBc1 {c0 c1 : Nat} {sel : List Nat} (h0 : c0 < 2 ^ 16) (h1 : c1 < 2 ^ 16)
    (hsel : ∀ i, sel.getD i 0 < 2 ^ 2) (idx3 : Idx3Alpha) (four : Bool) : bc1Decode idx3 (packBc1 c0 c1 sel) four =
      (List.range 16).map fun i => (bc1Palette idx3 c0 c1 four).getD (sel.getD i 0) default := by
  obtain ⟨hc0, hc1, hs⟩ := fields_packBc1 h0 h1 hsel
  refine List.map_congr_left fun i hi => ?_
  rw [hc0, hc1, hs i (List.mem_range.mp hi)]

/-- A packed BC4 block decodes to the palette values its indices name (spec R153). -/
theorem bc4Decode_packBc4 {e0 e1 : Nat} {idx : List Nat} (h0 : e0 < 2 ^ 8) (h1 : e1 < 2 ^ 8)
    (hidx : ∀ i, idx.getD i 0 < 2 ^ 3) : bc4Decode (packBc4 e0 e1 idx) =
      (List.range 16).map fun i => (bc4Palette e0 e1).getD (idx.getD i 0) 0 := by
  obtain ⟨he0, he1, hi⟩ := fields_packBc4 h0 h1 hidx
  refine List.map_congr_left fun i hmem => ?_
  rw [he0, he1, hi i (List.mem_range.mp hmem)]

/-- A pixel of the tile `DEC.BC1` writes, by what the low half decodes to (spec R201). -/
theorem tilePx_decodeBc1_lowHalf (idx3 : Idx3Alpha) (b : Block) {i : Nat} (hi : i < 16) :
    tilePx (tileOfPixels (decodeBc1 idx3 b)) i = (bc1Decode idx3 (lowHalf b) false).getD i default := by
  rw [tilePx_decodeBc1 _ _ hi, bc1Decode_lowHalf]
  simp [hi]

/-- The value of a pixel of the low half of a block (spec R153). -/
theorem bc4Value_low (b : Block) {i : Nat} (hi : i < 16) : bc4Value b 0 i = (bc4Decode (lowHalf b)).getD i 0 := by
  rw [bc4Decode_lowHalf, getD_map_range _ (List.mem_range.mpr hi)]

/-- The value of a pixel of the high half of a block (spec R153). -/
theorem bc4Value_high (b : Block) {i : Nat} (hi : i < 16) : bc4Value b 64 i = (bc4Decode (highHalf b)).getD i 0 := by
  rw [bc4Decode_highHalf, getD_map_range _ (List.mem_range.mpr hi)]

end Sys2Proof.Machine
end

section
/-! SUPPORT. A BC encoder followed by its decoder on a running lane: the block in between, and the pixels after it
(R200, R220). -/

namespace Sys2Proof.Machine

variable {s : State} {l : Lane}

/-- `ENC.BC1`, then `DEC.BC1` (spec R265, R201). -/
theorem exec_encBc1_decBc1 (h : Running s l) : ∃ t m u m', exec .encBc1 s = .next t ∧ curLane t = some m ∧
    exec .decBc1 t = .next u ∧ curLane u = some m' ∧
    lowHalf m.blk = encBc1 s.params.encoder s.params.idx3 .bc1 (tileRgb l.tile) (ctrlDither l.ctrl) ∧
    ∀ i < 16, tilePx m'.tile i = (bc1Decode s.params.idx3 (lowHalf m.blk) false).getD i default := by
  have h' := running_putLane h (laneWithHalf l
    (encBc1 s.params.encoder s.params.idx3 .bc1 (tileRgb l.tile) (ctrlDither l.ctrl))) h.2
  refine ⟨_, _, _, _, runCommand_running h _, h'.1, runCommand_running h' _, curLane_putLane h'.1,
    lowHalf_blockOf _ _, fun i hi => ?_⟩
  rw [laneWithTile_tile]
  exact tilePx_decodeBc1_lowHalf _ _ hi

/-- `ENC.BC4`, then `DEC.BC4` (spec R269, R203). -/
theorem exec_encBc4_decBc4 (h : Running s l) : ∃ t m u m', exec .encBc4 s = .next t ∧ curLane t = some m ∧
    exec .decBc4 t = .next u ∧ curLane u = some m' ∧
    lowHalf m.blk = encBc4 s.params.encoder .bc4 (tileR l.tile) ∧
    ∀ i < 16, tilePx m'.tile i = ⟨(bc4Decode (lowHalf m.blk)).getD i 0, 0, 0, 255⟩ := by
  have h' := running_putLane h (laneWithHalf l (encBc4 s.params.encoder .bc4 (tileR l.tile))) h.2
  refine ⟨_, _, _, _, runCommand_running h _, h'.1, runCommand_running h' _, curLane_putLane h'.1,
    lowHalf_blockOf _ _, fun i hi => ?_⟩
  rw [laneWithTile_tile, tilePx_decodeBc4 _ hi, bc4Value_low _ hi]

/-- `ENC.BC5`, then `DEC.BC5` (spec R271, R204). -/
theorem exec_encBc5_decBc5 (h : Running s l) : ∃ t m u m', exec .encBc5 s = .next t ∧ curLane t = some m ∧
    exec .decBc5 t = .next u ∧ curLane u = some m' ∧
    lowHalf m.blk = encBc4 s.params.encoder .bc5 (tileR l.tile) ∧
    highHalf m.blk = encBc4 s.params.encoder .bc5 (tileG l.tile) ∧
    ∀ i < 16, tilePx m'.tile i =
      ⟨(bc4Decode (lowHalf m.blk)).getD i 0, (bc4Decode (highHalf m.blk)).getD i 0, 0, 255⟩ := by
  have h' := running_putLane h (laneWithBlock l (blockOf (encBc4 s.params.encoder .bc5 (tileR l.tile))
    (encBc4 s.params.encoder .bc5 (tileG l.tile)))) h.2
  refine ⟨_, _, _, _, runCommand_running h _, h'.1, runCommand_running h' _, curLane_putLane h'.1,
    lowHalf_blockOf _ _, highHalf_blockOf _ _, fun i hi => ?_⟩
  rw [laneWithTile_tile, tilePx_decodeBc5 _ hi, bc4Value_low _ hi, bc4Value_high _ hi]

/-- `ENC.BC3`, then `DEC.BC3`: the halves, and the alpha (spec R270, R202). -/
theorem exec_encBc3_decBc3 (h : Running s l) : ∃ t m u m', exec .encBc3 s = .next t ∧ curLane t = some m ∧
    exec .decBc3 t = .next u ∧ curLane u = some m' ∧
    lowHalf m.blk = encBc4 s.params.encoder .bc3 (tileA l.tile) ∧
    highHalf m.blk = encBc1 s.params.encoder s.params.idx3 .bc3 (tileRgb l.tile) (ctrlDither l.ctrl) ∧
    ∀ i < 16, (tilePx m'.tile i).a = (bc4Decode (lowHalf m.blk)).getD i 0 := by
  have h' := running_putLane h (laneWithBlock l (blockOf (encBc4 s.params.encoder .bc3 (tileA l.tile))
    (encBc1 s.params.encoder s.params.idx3 .bc3 (tileRgb l.tile) (ctrlDither l.ctrl)))) h.2
  refine ⟨_, _, _, _, runCommand_running h _, h'.1, runCommand_running h' _, curLane_putLane h'.1,
    lowHalf_blockOf _ _, highHalf_blockOf _ _, fun i hi => ?_⟩
  rw [laneWithTile_tile, tilePx_decodeBc3 _ _ hi, bc4Value_low _ hi]

end Sys2Proof.Machine
end

section
/-! SUPPORT. The BC4 encoders (R266, R267): a solid channel's block, and the endpoints and indices of the reference
encoder's block of any other. -/

namespace Sys2Proof.Machine

/-- Sixteen equal values as BC4 endpoints with all indices 0 read back as the value (spec R267, R143). -/
theorem refEncBc4_solid {v : Nat} (hv : v < 256) :
    bc4Decode (refEncBc4 (List.replicate 16 v)) = List.replicate 16 v := by
  have hblock : refEncBc4 (List.replicate 16 v) = packBc4 v v [] := if_pos (solid_replicate 16 v)
  rw [hblock, bc4Decode_packBc4 (idx := []) hv hv fun _ => Nat.two_pow_pos 3, replicate_eq_map_range]
  exact List.map_congr_left fun i _ => (bc4Palette_getD_ends v v).1

/-- A BC4 block is the reference's or meets the contract (spec R266, log 10). -/
theorem encBc4_cases (k : EncoderKind) (fmt : Fmt) (vs : List Nat) :
    encBc4 k fmt vs = refEncBc4 vs ∨ bc4Contract vs (encBc4 k fmt vs) = true :=
  match k with
  | .reference => .inl rfl
  | .abstract => freeOr_cases _ _

/-- A channel of one value reads back from the BC4 block of either encoder (spec R266). -/
theorem encBc4_solid (k : EncoderKind) (fmt : Fmt) {v : Nat} (hv : v < 256) :
    bc4Decode (encBc4 k fmt (List.replicate 16 v)) = List.replicate 16 v := by
  rcases encBc4_cases k fmt (List.replicate 16 v) with href | hcontract
  · rw [href]
    exact refEncBc4_solid hv
  · rw [bc4Contract, solid_replicate] at hcontract
    simpa only [Bool.not_true, Bool.false_or, beq_iff_eq] using hcontract

/-- The least of some values as the library's minimum. -/
theorem min?_eq_some_leastOf {vs : List Nat} (h : vs ≠ []) : vs.min? = some (leastOf vs) := by
  obtain ⟨v, vs, rfl⟩ := List.exists_cons_of_ne_nil h
  exact List.min?_cons'

/-- The greatest of some values as the library's maximum. -/
theorem max?_eq_some_greatestOf {vs : List Nat} (h : vs ≠ []) : vs.max? = some (greatestOf vs) := by
  obtain ⟨v, vs, rfl⟩ := List.exists_cons_of_ne_nil h
  rw [List.max?_cons', greatestOf, List.foldl_cons, Nat.zero_max]

/-- The least of some values is one of them, and none is below it. -/
theorem leastOf_spec {vs : List Nat} (h : vs ≠ []) : leastOf vs ∈ vs ∧ ∀ v ∈ vs, leastOf vs ≤ v :=
  List.min?_eq_some_iff.mp (min?_eq_some_leastOf h)

/-- The greatest of some values is one of them, and none is above it. -/
theorem greatestOf_spec {vs : List Nat} (h : vs ≠ []) : greatestOf vs ∈ vs ∧ ∀ v ∈ vs, v ≤ greatestOf vs :=
  List.max?_eq_some_iff.mp (max?_eq_some_greatestOf h)

/-- Two different entries make a list not solid (spec R221). -/
theorem solid_eq_false {α : Type} [DecidableEq α] {xs : List α} {x y : α} (hx : x ∈ xs) (hy : y ∈ xs) (hne : x ≠ y) :
    solid xs = false := by
  cases xs with
  | nil => cases hx
  | cons z zs =>
    rw [← Bool.not_eq_true, solid, List.all_eq_true]
    intro hall
    have heq : ∀ u ∈ z :: zs, u = z := List.forall_mem_cons.mpr ⟨rfl, fun u hu => beq_iff_eq.mp (hall u hu)⟩
    exact hne ((heq x hx).trans (heq y hy).symm)

/-- A palette index is a 3-bit value (spec R267). -/
theorem bc4BestIdx_lt (pal : List Nat) (v : Nat) : bc4BestIdx pal v < 8 := leastBelow_lt _ (by decide)

/-- A BC4 palette has eight values (spec R143). -/
@[simp] theorem bc4Palette_length (e0 e1 : Nat) : (bc4Palette e0 e1).length = 8 := by
  unfold bc4Palette
  split <;> rfl

/-- No value of the palette is nearer than the one the chosen index names (spec R267). -/
theorem bc4BestIdx_nearest {e0 e1 u : Nat} (v : Nat) (hu : u ∈ bc4Palette e0 e1) :
    absDiff ((bc4Palette e0 e1).getD (bc4BestIdx (bc4Palette e0 e1) v) 0) v ≤ absDiff u v := by
  obtain ⟨k, hk, rfl⟩ := List.mem_iff_getElem.mp hu
  rw [← List.getD_eq_getElem _ 0 hk]
  exact leastBelow_le (fun k => absDiff ((bc4Palette e0 e1).getD k 0) v) (bc4Palette_length e0 e1 ▸ hk)

/-- What the reference encoder's block of a channel that is not solid holds: the greatest and the least value, and for
each pixel the nearest palette value (spec R267). -/
theorem refEncBc4_not_solid {vs : List Nat} (hlen : vs.length = 16) (hvs : ∀ v ∈ vs, v < 256) (hs : solid vs = false) :
    bc4E0 (refEncBc4 vs) = greatestOf vs ∧ bc4E1 (refEncBc4 vs) = leastOf vs ∧ ∀ i < 16,
      (bc4Decode (refEncBc4 vs)).getD i 0 = (bc4Palette (greatestOf vs) (leastOf vs)).getD
        (bc4BestIdx (bc4Palette (greatestOf vs) (leastOf vs)) (vs.getD i 0)) 0 := by
  have hblock : refEncBc4 vs = packBc4 (greatestOf vs) (leastOf vs)
      (vs.map (bc4BestIdx (bc4Palette (greatestOf vs) (leastOf vs)))) := if_neg (Bool.eq_false_iff.mp hs)
  have h0 : greatestOf vs < 2 ^ 8 := greatestOf_lt (by decide) hvs
  have h1 : leastOf vs < 2 ^ 8 := leastOf_lt (by decide) hvs
  have hidx : ∀ i, (vs.map (bc4BestIdx (bc4Palette (greatestOf vs) (leastOf vs)))).getD i 0 < 2 ^ 3 :=
    getD_of_forall_mem (P := (· < 2 ^ 3)) (List.forall_mem_map.mpr fun v _ => bc4BestIdx_lt _ v) (by decide)
  obtain ⟨he0, he1, -⟩ := fields_packBc4 h0 h1 hidx
  rw [hblock]
  refine ⟨he0, he1, fun i hi => ?_⟩
  rw [bc4Decode_packBc4 h0 h1 hidx, getD_map_range _ (List.mem_range.mpr hi)]
  simp [hlen, hi]

end Sys2Proof.Machine
end

section
/-! SUPPORT. The reference encoder of BC1 colours (R262 to R265): what it stores fits its fields and never names
selector 3 of the three-colour mode, and a solid tile is quantised. -/

namespace Sys2Proof.Machine

/-- What the reference encoder stores: endpoints and selectors that fit their fields, in the four-colour mode or with
every selector 0 (spec R264, R265). -/
structure Bc1Storable (c0 c1 : Nat) (sel : List Nat) : Prop where
  c0_lt : c0 < 2 ^ 16
  c1_lt : c1 < 2 ^ 16
  sel_lt : ∀ i, sel.getD i 0 < 2 ^ 2
  fourColour_or_first : c1 < c0 ∨ ∀ i, sel.getD i 0 = 0

/-- Three quantised channels side by side make a number of 16 bits (spec R262). -/
theorem q565_lt (c : Colour) : q565 c < 2 ^ 16 := by
  have hr := quant_lt 5 (chan c 0)
  have hg := quant_lt 6 (chan c 1)
  have hb := quant_lt 5 (chan c 2)
  unfold q565
  omega

/-- The fields of a quantised colour are its quantised channels (spec R262, R140). -/
theorem expand565_q565 (r g b : Nat) :
    expand565 (q565 [r, g, b]) = [expand 5 (quant 5 r), expand 6 (quant 6 g), expand 5 (quant 5 b)] := by
  have hr := quant_lt 5 r
  have hg := quant_lt 6 g
  have hb := quant_lt 5 b
  have hq : q565 [r, g, b] = quant 5 r * 2 ^ 11 + quant 6 g * 2 ^ 5 + quant 5 b := rfl
  have hfields : q565 [r, g, b] / 2048 = quant 5 r ∧ q565 [r, g, b] / 32 % 64 = quant 6 g ∧
      q565 [r, g, b] % 32 = quant 5 b := by omega
  obtain ⟨h0, h1, h2⟩ := hfields
  rw [expand565_eq (q565_lt _), h0, h1, h2]

/-- A quantised colour as both endpoints, with every selector 0 (spec R264, R265). -/
theorem bc1Storable_flat (c : Colour) {sel : List Nat} (hsel : ∀ i, sel.getD i 0 = 0) :
    Bc1Storable (q565 c) (q565 c) sel :=
  ⟨q565_lt c, q565_lt c, fun i => by rw [hsel]; decide, .inr hsel⟩

/-- An evaluated candidate can be stored: equal endpoints go with selector 0, different ones are put in the order of the
four-colour mode (spec R264). -/
theorem bc1Storable_bc1Trial (p : List Colour) (k : Colour × Colour) :
    Bc1Storable (bc1Trial p k).c0 (bc1Trial p k).c1 (bc1Trial p k).sel := by
  unfold bc1Trial
  extract_lets a b pal
  have ha : a < 2 ^ 16 := q565_lt k.1
  have hb : b < 2 ^ 16 := q565_lt k.2
  split_ifs with hab
  · exact bc1Storable_flat k.1 (getD_of_forall_mem (P := (· = 0)) (by simp) rfl)
  · refine ⟨max_lt ha hb, (min_le_left a b).trans_lt ha, ?_, .inl (min_lt_max.mpr hab)⟩
    exact getD_of_forall_mem (P := (· < 2 ^ 2)) (List.forall_mem_map.mpr fun c _ => paintSel_lt _ c) (by decide)

/-- The reference encoder packs values that can be stored: a flat block, or the best candidate's (spec R265). -/
theorem refEncBc1_eq_packBc1 (p : List Colour) (dith : Bool) :
    ∃ c0 c1 sel, refEncBc1 p dith = packBc1 c0 c1 sel ∧ Bc1Storable c0 c1 sel := by
  unfold refEncBc1
  extract_lets q best
  split_ifs
  · exact ⟨_, _, _, rfl, bc1Storable_flat _ fun _ => rfl⟩
  · have hmem : best ∈ (bc1Cands q).map (bc1Trial q) := leastBy_mem _ _ (by simp [bc1Cands])
    obtain ⟨k, -, hk⟩ := List.mem_map.mp hmem
    exact ⟨_, _, _, rfl, hk ▸ bc1Storable_bc1Trial q k⟩

/-- Values that can be stored decode alike in both readings: the palettes agree in the four-colour mode, and their first
colours agree in any (spec R141, R144). -/
theorem Bc1Storable.bc1Decode_eq {c0 c1 : Nat} {sel : List Nat} (h : Bc1Storable c0 c1 sel) (a a' : Idx3Alpha)
    (four four' : Bool) : bc1Decode a (packBc1 c0 c1 sel) four = bc1Decode a' (packBc1 c0 c1 sel) four' := by
  rw [bc1Decode_packBc1 h.c0_lt h.c1_lt h.sel_lt, bc1Decode_packBc1 h.c0_lt h.c1_lt h.sel_lt]
  refine List.map_congr_left fun i _ => ?_
  rcases h.fourColour_or_first with hgt | hfirst
  · rw [bc1Palette_eq, bc1Palette_eq, if_pos (.inl hgt), if_pos (.inl hgt)]
  · rw [hfirst, bc1Palette_eq, bc1Palette_eq]
    split_ifs <;> rfl

/-- The contract's check of a block by its fields: no pixel has selector 3 in the three-colour mode (spec R140, R141,
R261). -/
theorem neverThreeColourBlack_iff (h : Half) : neverThreeColourBlack h = true ↔
    ∀ i < 16, ¬(bc1C0 h ≤ bc1C1 h ∧ bc1Sel h i = 3) := by
  simp only [neverThreeColourBlack, Bool.or_eq_true, decide_eq_true_eq, List.all_eq_true, List.mem_range, bne_iff_ne,
    not_and, gt_iff_lt, ← Nat.not_le, ← imp_iff_not_or]
  exact ⟨fun hall i hi hle => hall hle i hi, fun hall hle i hi => hall i hi hle⟩

/-- Values that can be stored have no pixel of selector 3 in the three-colour mode (spec R261, D27). -/
theorem Bc1Storable.not_threeColourBlack {c0 c1 : Nat} {sel : List Nat} (h : Bc1Storable c0 c1 sel) :
    neverThreeColourBlack (packBc1 c0 c1 sel) = true := by
  obtain ⟨h0, h1, hsel⟩ := fields_packBc1 h.c0_lt h.c1_lt h.sel_lt
  refine (neverThreeColourBlack_iff _).mpr fun i hi ⟨hle, hblack⟩ => ?_
  rw [h0, h1] at hle
  rw [hsel i hi] at hblack
  rcases h.fourColour_or_first with hgt | hfirst
  · exact Nat.not_le.mpr hgt hle
  · exact absurd ((hfirst i).symm.trans hblack) (by decide)

/-- The block of either encoder has no pixel of selector 3 in the three-colour mode (spec R261, D27). -/
theorem neverThreeColourBlack_encBc1 (k : EncoderKind) (idx3 : Idx3Alpha) (p : List Colour) (dith : Bool) :
    neverThreeColourBlack (encBc1 k idx3 .bc1 p dith) = true := by
  rcases encBc1_cases k idx3 .bc1 p dith with href | hcontract
  · obtain ⟨c0, c1, sel, hpack, hstore⟩ := refEncBc1_eq_packBc1 p dith
    rw [href, hpack]
    exact hstore.not_threeColourBlack
  · exact (Bool.and_eq_true_iff.mp hcontract).1

/-- Every colour of a palette is opaque but for selector 3 of the three-colour mode (spec R141). -/
theorem bc1Palette_opaque (idx3 : Idx3Alpha) {c0 c1 k : Nat} (hk : k < 4) (h : ¬(c0 ≤ c1 ∧ k = 3)) :
    ((bc1Palette idx3 c0 c1 false).getD k default).a = 255 := by
  rw [bc1Palette_eq]
  by_cases hgt : c0 > c1
  · rw [if_pos (.inl hgt)]
    interval_cases k <;> rfl
  · have hk3 : k < 3 := by omega
    rw [if_neg (by simpa using hgt)]
    interval_cases k <;> rfl

/-- The reference block of a solid tile that is not dithered decodes to the quantised colour (spec R265, R153). -/
theorem bc1Decode_refEncBc1_solid (idx3 : Idx3Alpha) (r g b : Nat) :
    bc1Decode idx3 (refEncBc1 (List.replicate 16 [r, g, b]) false) false = List.replicate 16
      ⟨expand 5 (quant 5 r), expand 6 (quant 6 g), expand 5 (quant 5 b), 255⟩ := by
  have hblock : refEncBc1 (List.replicate 16 [r, g, b]) false = packBc1 (q565 [r, g, b]) (q565 [r, g, b]) [] :=
    if_pos (solid_replicate 16 [r, g, b])
  have hstore := bc1Storable_flat [r, g, b] (sel := []) fun _ => rfl
  have hfirst : (bc1Palette idx3 (q565 [r, g, b]) (q565 [r, g, b]) false).getD 0 default =
      ⟨expand 5 (quant 5 r), expand 6 (quant 6 g), expand 5 (quant 5 b), 255⟩ := by
    rw [bc1Palette_eq, if_neg (by simp), List.getD_cons_zero, mixColours, expand565_q565]
    rfl
  rw [hblock, bc1Decode_packBc1 hstore.c0_lt hstore.c1_lt hstore.sel_lt, List.eq_replicate_iff]
  exact ⟨by simp, List.forall_mem_map.mpr fun i _ => hfirst⟩

/-- The quantised field is the nearest (spec R10). -/
theorem quant_le (n c : Nat) {q : Nat} (hq : q < 2 ^ n) : absDiff (expand n (quant n c)) c ≤ absDiff (expand n q) c :=
  leastBelow_le (fun q => absDiff (expand n q) c) hq

/-- A channel value that some field expands to is quantised exactly (spec R10, R223). -/
theorem expand_quant_of_expand {n q c : Nat} (hq : q < 2 ^ n) (hc : expand n q = c) : expand n (quant n c) = c := by
  have h := quant_le n c hq
  simp only [hc, absDiff] at h
  omega

/-- Five bits come within 4 of every channel value: four fields, 8 apart, span 33 values (spec R223, R265). -/
theorem quant_five_near {c : Nat} (hc : c < 256) : absDiff (expand 5 (quant 5 c)) c ≤ 4 := by
  refine (quant_le 5 c (q := 4 * (c / 33) + (c % 33 + 3) / 8) (by omega)).trans ?_
  simp only [expand, absDiff, if_neg (show 5 ≠ 8 by decide)]
  omega

/-- Six bits come within 2 of every channel value: sixteen fields, 4 apart, span 65 values (spec R223, R265). -/
theorem quant_six_near {c : Nat} (hc : c < 256) : absDiff (expand 6 (quant 6 c)) c ≤ 2 := by
  refine (quant_le 6 c (q := 16 * (c / 65) + (c % 65 + 1) / 4) (by omega)).trans ?_
  simp only [expand, absDiff, if_neg (show 6 ≠ 8 by decide)]
  omega

/-- The least and the greatest channel value are quantised exactly in 5 and in 6 bits (spec R223, R265). -/
theorem expand_quant_extreme {n c : Nat} (hn : n = 5 ∨ n = 6) (hc : c = 0 ∨ c = 255) : expand n (quant n c) = c := by
  rcases hc with rfl | rfl
  · exact expand_quant_of_expand (q := 0) (Nat.two_pow_pos n) (by rcases hn with rfl | rfl <;> rfl)
  · exact expand_quant_of_expand (q := 2 ^ n - 1) (Nat.sub_one_lt (Nat.two_pow_pos n).ne')
      (by rcases hn with rfl | rfl <;> rfl)

/-- The all-red tile reads back near opaque red from the block of either encoder (spec R261). -/
theorem nearRed_encBc1 (k : EncoderKind) (idx3 : Idx3Alpha) :
    nearRed (bc1Decode idx3 (encBc1 k idx3 .bc1 redTile false) false) = true := by
  rcases encBc1_cases k idx3 .bc1 redTile false with href | hcontract
  · rw [href, redTile, bc1Decode_refEncBc1_solid, expand_quant_extreme (.inl rfl) (.inr rfl),
      expand_quant_extreme (.inr rfl) (.inl rfl), expand_quant_extreme (.inl rfl) (.inl rfl)]
    rfl
  · simpa using (Bool.and_eq_true_iff.mp hcontract).2

/-- A pixel of sixteen that are near opaque red (spec R261). -/
theorem getD_of_nearRed {px : List Px} (hlen : px.length = 16) (h : nearRed px = true) {i : Nat} (hi : i < 16) :
    253 ≤ (px.getD i default).r ∧ (px.getD i default).g ≤ 2 ∧ (px.getD i default).b ≤ 2 ∧
      253 ≤ (px.getD i default).a := by
  have hmem : px.getD i default ∈ px := by
    rw [List.getD_eq_getElem _ _ (hlen ▸ hi)]
    exact List.getElem_mem _
  have hpx := List.all_eq_true.mp h _ hmem
  simp only [Bool.and_eq_true, decide_eq_true_eq] at hpx
  simp only [absDiff] at hpx
  omega

end Sys2Proof.Machine
end

section
/-! The obligations of the BC encoder family (46_encoders_bc.md). -/

namespace Sys2Proof.Machine

/-- Settles O44: sixteen equal values read back from the BC4 block of either encoder, in either half of a block. -/
theorem bc4SolidRoundTrip : Obligations.Bc4SolidRoundTrip := by
  unfold Obligations.Bc4SolidRoundTrip
  intro s l v w hrun
  obtain ⟨hrlt, hglt, -, halt⟩ := tilePx_inRange l.tile 0
  refine ⟨fun hr => ?_, fun hrg => ?_, fun ha => ?_⟩
  · obtain ⟨t, m, u, m', henc, -, hdec, hm', hlow, hpixel⟩ := exec_encBc4_decBc4 hrun
    have htile : tileR l.tile = List.replicate 16 v := map_tilePixels_eq_replicate hr
    rw [htile] at hlow
    refine ⟨t, u, m', henc, hdec, hm', fun i hi => ?_⟩
    rw [hpixel i hi, hlow, encBc4_solid _ _ (hr 0 (by decide) ▸ hrlt), List.getD_replicate _ hi]
  · obtain ⟨t, m, u, m', henc, -, hdec, hm', hlow, hhigh, hpixel⟩ := exec_encBc5_decBc5 hrun
    obtain ⟨hr0, hg0⟩ := hrg 0 (by decide)
    have htileR : tileR l.tile = List.replicate 16 v := map_tilePixels_eq_replicate fun i hi => (hrg i hi).1
    have htileG : tileG l.tile = List.replicate 16 w := map_tilePixels_eq_replicate fun i hi => (hrg i hi).2
    rw [htileR] at hlow
    rw [htileG] at hhigh
    refine ⟨t, u, m', henc, hdec, hm', fun i hi => ?_⟩
    rw [hpixel i hi, hlow, hhigh, encBc4_solid _ _ (hr0 ▸ hrlt), encBc4_solid _ _ (hg0 ▸ hglt),
      List.getD_replicate _ hi, List.getD_replicate _ hi]
  · obtain ⟨t, m, u, m', henc, -, hdec, hm', hlow, -, halpha⟩ := exec_encBc3_decBc3 hrun
    have htile : tileA l.tile = List.replicate 16 v := map_tilePixels_eq_replicate ha
    rw [htile] at hlow
    refine ⟨t, u, m', henc, hdec, hm', fun i hi => ?_⟩
    rw [halpha i hi, hlow, encBc4_solid _ _ (ha 0 (by decide) ▸ halt), List.getD_replicate _ hi]

/-- Settles O45: the stored endpoints are the greatest and least value, and each index was chosen by its distance. -/
theorem bc4IndicesAreNearest : Obligations.Bc4IndicesAreNearest := by
  unfold Obligations.Bc4IndicesAreNearest
  intro s l i₀ j₀ hrun href hi₀ hj₀ hne
  obtain ⟨t, m, u, m', henc, hm, hdec, hm', hlow, hpixel⟩ := exec_encBc4_decBc4 hrun
  refine ⟨t, u, m, m', henc, hm, hdec, hm', ?_⟩
  have hmem : ∀ {v}, v ∈ tileR l.tile ↔ ∃ i < 16, (tilePx l.tile i).r = v := by simp [tileR, tilePixels]
  have hget : ∀ i < 16, (tileR l.tile).getD i 0 = (tilePx l.tile i).r := fun i hi => by simp [tileR, tilePixels, hi]
  have hrange : ∀ v ∈ tileR l.tile, v < 256 := fun v hv => by
    obtain ⟨i, -, rfl⟩ := hmem.mp hv
    exact (tilePx_inRange l.tile i).1
  have hi₀mem := hmem.mpr ⟨i₀, hi₀, rfl⟩
  have hj₀mem := hmem.mpr ⟨j₀, hj₀, rfl⟩
  obtain ⟨hgreatest, hle⟩ := greatestOf_spec (List.ne_nil_of_mem hi₀mem)
  obtain ⟨hleast, hge⟩ := leastOf_spec (List.ne_nil_of_mem hi₀mem)
  obtain ⟨he0, he1, hvalue⟩ := refEncBc4_not_solid (by simp [tileR]) hrange (solid_eq_false hi₀mem hj₀mem hne)
  rw [href, encBc4] at hlow
  rw [← hlow] at he0 he1 hvalue
  replace he0 : getField m.blk 0 8 = greatestOf (tileR l.tile) := (getField_lowHalf _ (by decide)).symm.trans he0
  replace he1 : getField m.blk 8 8 = leastOf (tileR l.tile) := (getField_lowHalf _ (by decide)).symm.trans he1
  rw [he0, he1]
  refine ⟨fun i hi => ⟨hge _ (hmem.mpr ⟨i, hi, rfl⟩), hle _ (hmem.mpr ⟨i, hi, rfl⟩)⟩, hmem.mp hgreatest,
    hmem.mp hleast, fun i hi v hv => ?_⟩
  have hred : (tilePx m'.tile i).r = (bc4Decode (lowHalf m.blk)).getD i 0 := by rw [hpixel i hi]
  rw [hred, hvalue i hi, hget i hi]
  exact bc4BestIdx_nearest _ hv

/-- Settles O46: the reference block decodes to opaque red itself, and an abstract one meets the contract. -/
theorem bc1RedScenario : Obligations.Bc1RedScenario := by
  unfold Obligations.Bc1RedScenario
  intro s l hrun hdither htile
  obtain ⟨t, m, u, m', henc, -, hdec, hm', hlow, hpixel⟩ := exec_encBc1_decBc1 hrun
  refine ⟨t, u, m', henc, hdec, hm', fun i hi => ?_⟩
  have hrgb : tileRgb l.tile = redTile := map_tilePixels_eq_replicate fun i hi => by rw [htile i hi]; rfl
  rw [hpixel i hi, hlow, hrgb, hdither]
  exact getD_of_nearRed (by simp [bc1Decode]) (nearRed_encBc1 _ _) hi

/-- Settles O47: either encoder's block has no selector 3 in the three-colour mode, and every other palette colour is
opaque. -/
theorem encBc1NeverTransparent : Obligations.EncBc1NeverTransparent := by
  unfold Obligations.EncBc1NeverTransparent
  intro s l hrun
  obtain ⟨t, m, u, m', henc, hm, hdec, hm', hlow, hpixel⟩ := exec_encBc1_decBc1 hrun
  refine ⟨t, m, u, m', henc, hm, hdec, hm', fun i hi => ?_⟩
  have hnever : ¬(getField m.blk 0 16 ≤ getField m.blk 16 16 ∧ getField m.blk (32 + 2 * i) 2 = 3) := by
    rw [← getField_lowHalf _ (by decide), ← getField_lowHalf _ (by decide), ← getField_lowHalf _ (by omega), hlow]
    exact (neverThreeColourBlack_iff _).mp (neverThreeColourBlack_encBc1 _ _ _ _) i hi
  refine ⟨hnever, ?_⟩
  rw [hpixel i hi, bc1Decode_lowHalf]
  simpa [hi] using bc1Palette_opaque s.params.idx3 (getField_lt m.blk (32 + 2 * i) 2) hnever

/-- Settles O48: a solid tile decodes to its quantised colour, and quantising errs by half a step. -/
theorem bc1SolidTileErrors : Obligations.Bc1SolidTileErrors := by
  unfold Obligations.Bc1SolidTileErrors
  intro s l r g b hrun href hdither htile
  obtain ⟨t, m, u, m', henc, -, hdec, hm', hlow, hpixel⟩ := exec_encBc1_decBc1 hrun
  have hrgb : tileRgb l.tile = List.replicate 16 [r, g, b] := map_tilePixels_eq_replicate htile
  have htile0 := htile 0 (by decide)
  simp only [rgbOf, List.cons.injEq, and_true] at htile0
  obtain ⟨rfl, rfl, rfl⟩ := htile0
  obtain ⟨hr, hg, hb, -⟩ := tilePx_inRange l.tile 0
  rw [href, hrgb, hdither, encBc1] at hlow
  refine ⟨t, u, m', _, _, _, henc, hdec, hm', fun i hi => ?_, quant_five_near hr, quant_six_near hg, quant_five_near hb,
    expand_quant_extreme (.inl rfl), expand_quant_extreme (.inr rfl), expand_quant_extreme (.inl rfl)⟩
  rw [hpixel i hi, hlow, bc1Decode_refEncBc1_solid, List.getD_replicate _ hi]

/-- Settles O49: what the reference encoder stores decodes alike in both readings, and `ENC.BC3` stores it. -/
theorem bc3ColourHalfReadsAlike : Obligations.Bc3ColourHalfReadsAlike := by
  unfold Obligations.Bc3ColourHalfReadsAlike
  refine ⟨fun p dith a a' => ?_, fun s l hrun href => ?_⟩
  · obtain ⟨c0, c1, sel, hpack, hstore⟩ := refEncBc1_eq_packBc1 p dith
    rw [hpack]
    exact hstore.bc1Decode_eq a a' true false
  · obtain ⟨t, m, -, -, henc, hm, -, -, -, hhigh, -⟩ := exec_encBc3_decBc3 hrun
    rw [href, encBc1] at hhigh
    exact ⟨t, m, henc, hm, hhigh⟩

end Sys2Proof.Machine
end

section
/-! SUPPORT. The BC7 encoder on any lane and any tables (R291, R297 to R299): the mode of the search's choice, of its
canonicalisation and of the packed block, and the block's rotation. None of this needs a legal choice. -/

namespace Sys2Proof.Machine

/-- A field of a number cut to `n` bits is a field of the number (spec R7). -/
theorem getField_ofNat {n o w : Nat} (h : o + w ≤ n) (x : Nat) : getField (BitVec.ofNat n x) o w = field x o w := by
  have hcut := field_field x 0 h
  simpa [getField, field] using hcut

/-- Splitting packed fields gives their values back, each cut to its width (spec R147, R298). -/
theorem splitFields_packFields_mod (fs : List (Nat × Nat)) :
    splitFields (fs.map Prod.snd) (packFields fs) = fs.map fun f => f.1 % 2 ^ f.2 := by
  induction fs with
  | nil => rfl
  | cons f fs ih =>
    obtain ⟨v, w⟩ := f
    have hv : v % 2 ^ w < 2 ^ w := Nat.mod_lt _ (Nat.two_pow_pos w)
    simp only [packFields, splitFields, List.map_cons]
    rw [Nat.add_mul_mod_self_left, Nat.mod_eq_of_lt hv, Nat.add_mul_div_left _ _ (Nat.two_pow_pos w),
      Nat.div_eq_of_lt hv, Nat.zero_add, ih]

/-- Field `k` of packed fields, whether or not its value fits (spec R147, R298). -/
theorem field_packFields_mod (fs : List (Nat × Nat)) (k : Nat) :
    field (packFields fs) ((fs.map Prod.snd).take k).sum ((fs.map Prod.snd).getD k 0) =
      (fs.map fun f => f.1 % 2 ^ f.2).getD k 0 := by
  rw [← getD_splitFields, splitFields_packFields_mod]

/-- A packed block starts with its mode, its partition and the rotation 0 (spec R147, R298). -/
theorem packChoice_lead (c : Choice) : ∃ rest, packChoice c = BitVec.ofNat 128 (packFields
    ((2 ^ c.mode, c.mode + 1) :: (c.part, (bc7Mode c.mode).pb) :: (0, (bc7Mode c.mode).rb) :: rest)) :=
  ⟨_, rfl⟩

/-- A packed block has the mode of the choice, legal or not (spec R146, R298). -/
theorem bc7ModeOf_packChoice_of_mode_lt {c : Choice} (hmode : c.mode < 8) : bc7ModeOf (packChoice c) = c.mode := by
  obtain ⟨rest, hpack⟩ := packChoice_lead c
  have hlow : 2 ^ c.mode % 2 ^ (c.mode + 1) = 2 ^ c.mode :=
    Nat.mod_eq_of_lt (Nat.pow_lt_pow_right (by decide) (Nat.lt_succ_self _))
  have hfield : getField (packChoice c) 0 (c.mode + 1) = 2 ^ c.mode := by
    rw [hpack, getField_ofNat (by omega)]
    exact (field_packFields_mod _ 0).trans hlow
  have hbit : ∀ k ≤ c.mode, (packChoice c).getLsbD k = decide (c.mode = k) := fun k hk => by
    have htest := getField_testBit (packChoice c) 0 (c.mode + 1) k
    rw [hfield, Nat.testBit_two_pow] at htest
    simpa [Nat.lt_succ_of_le hk] using htest.symm
  exact bc7ModeOf_eq hmode (by simp [hbit]) fun k hk => by simp [hbit k hk.le, hk.ne']

/-- A packed block has rotation 0 (spec R147, R298). -/
theorem getField_packChoice_rot {c : Choice} (hmode : c.mode < 8) :
    getField (packChoice c) (c.mode + 1 + (bc7Mode c.mode).pb) (bc7Mode c.mode).rb = 0 := by
  obtain ⟨rest, hpack⟩ := packChoice_lead c
  have hwithin : ∀ mode < 8, mode + 1 + (bc7Mode mode).pb + (bc7Mode mode).rb ≤ 128 := by decide
  rw [hpack, getField_ofNat (hwithin _ hmode)]
  simpa using field_packFields_mod
    ((2 ^ c.mode, c.mode + 1) :: (c.part, (bc7Mode c.mode).pb) :: (0, (bc7Mode c.mode).rb) :: rest) 2

/-- Canonicalising a subset keeps the mode (spec R297). -/
@[simp] theorem canonSubset_mode (c : Choice) (s : Nat) : (canonSubset c s).mode = c.mode := by
  rw [canonSubset_eq]
  split <;> rfl

/-- Canonicalising alpha keeps the mode (spec R297). -/
@[simp] theorem canonAlpha_mode (c : Choice) : (canonAlpha c).mode = c.mode := by
  rw [canonAlpha_eq]
  split <;> rfl

/-- Canonicalising subsets one after another keeps the mode (spec R297). -/
theorem foldl_canonSubset_mode (ss : List Nat) (c : Choice) : (ss.foldl canonSubset c).mode = c.mode := by
  induction ss generalizing c with
  | nil => rfl
  | cons s ss ih => rw [List.foldl_cons, ih, canonSubset_mode]

/-- Canonicalisation keeps the mode (spec R297). -/
@[simp] theorem canonicalise_mode (c : Choice) : (canonicalise c).mode = c.mode :=
  (canonAlpha_mode _).trans (foldl_canonSubset_mode _ c)

/-- The reference search answers an allowed mode, whatever it is handed (spec R291, R296). -/
theorem refBc7Search_allowedMode (args : SearchArgs) : AllowedMode args.pixels (refBc7Search args).mode := by
  have htrials : ∀ t ∈ bc7Trials args, AllowedMode args.pixels t.2.2.mode := by
    unfold bc7Trials AllowedMode
    split
    · exact List.forall_mem_cons.mpr ⟨.inl rfl, List.forall_mem_singleton.mpr (.inr rfl)⟩
    · exact List.forall_mem_cons.mpr ⟨.inl rfl, List.forall_mem_cons.mpr ⟨.inr (.inl rfl),
        List.forall_mem_singleton.mpr (.inr (.inr rfl))⟩⟩
  exact htrials _ (leastBy_mem _ _ (List.cons_ne_nil _ _))

/-- The search answers an allowed mode, whichever one it is and whatever it is handed (spec R291, R292, R13). -/
theorem bc7Search_allowedMode (p : Params) (args : SearchArgs) : AllowedMode args.pixels (bc7Search p args).mode := by
  unfold bc7Search
  split
  · exact refBc7Search_allowedMode args
  · rcases freeOr_cases (contract := choiceContract args.pixels) (Config.freeBc7Search args) (refBc7Search args) with
      heq | hfree
    · rw [heq]
      exact refBc7Search_allowedMode args
    · exact ((choiceContract_iff _ _).mp hfree).1

/-- A tile is opaque when each of its sixteen alphas is 255 (spec R291). -/
theorem opaqueTile_tilePixels_iff (t : TileBuf) :
    opaqueTile (tilePixels t) = true ↔ ∀ i < 16, (tilePx t i).a = 255 := by
  simp [opaqueTile, tilePixels]

/-- Mode 1 has neither alpha nor rotation, so its blocks decode to alpha 255 (spec R148, R150, R151). -/
theorem bc7Decode_alpha_of_mode_one {b : Block} (hb : bc7ModeOf b = 1) : ∀ q ∈ bc7Decode b, q.a = 255 := by
  have hrot : (bc7Fields 1 b).rot = 0 :=
    (bc7Fields_rot_isb_bounds (by decide) b).2.2.2 (by decide) (by decide)
  rw [bc7Decode_of_mode (by decide) hb]
  refine List.forall_mem_map.mpr fun i _ => ?_
  rw [bc7Pixel_eq, hrot]
  exact bc7Mix_alpha_absent rfl i

/-- `INIT.BC7` on a running lane computes the tables unless they are ready (spec R290). -/
theorem exec_initBc7 {s : State} {l : Lane} (h : Running s l) : exec .initBc7 s =
    .next (if s.bc7Ready = true then s else { s with opt1 := opt1Table, opt7 := opt7Table, bc7Ready := true }) :=
  runCommand_running h _

end Sys2Proof.Machine
end

section
/-! The obligations of the BC7 encoder family (47_encoder_bc7.md). -/

namespace Sys2Proof.Machine

/-- Settles O30: the fields of the packed block are those of the choice, so its pixels are too. -/
theorem packedChoiceDecodes : Obligations.PackedChoiceDecodes := by
  unfold Obligations.PackedChoiceDecodes
  intro px c hcontract hclear
  obtain ⟨-, hlegal⟩ := (choiceContract_iff px c).mp hcontract
  exact hlegal.bc7Decode_packChoice hclear

/-- Settles O28: the search answers an allowed mode, which canonicalisation keeps and the packed block has. -/
theorem encBc7Effect : Obligations.EncBc7Effect := by
  unfold Obligations.EncBc7Effect
  intro s l hrun hready
  have hallowed := bc7Search_allowedMode s.params (searchArgs s l)
  change AllowedMode (tilePixels l.tile) _ at hallowed
  have hmode_lt : (canonicalise (bc7Search s.params (searchArgs s l))).mode < 8 := by
    rw [canonicalise_mode]
    exact (emitted_mode_facts _ hallowed.mem).1
  have hmode := bc7ModeOf_packChoice_of_mode_lt hmode_lt
  refine ⟨_, exec_encBc7_ready hrun hready, rfl, fun hopaque => ?_, fun ⟨i, hi, halpha⟩ => ?_, fun hfive => ?_,
    bc7Decode_alpha_of_mode_one⟩
  · rw [AllowedMode, if_pos ((opaqueTile_tilePixels_iff _).mpr hopaque)] at hallowed
    rwa [encBc7, hmode, canonicalise_mode]
  · rw [AllowedMode, if_neg fun h => halpha ((opaqueTile_tilePixels_iff _).mp h i hi)] at hallowed
    rwa [encBc7, hmode, canonicalise_mode]
  · have hrot := getField_packChoice_rot hmode_lt
    rwa [hmode.symm.trans hfive] at hrot

/-- Settles O29: each step of the canonicalisation keeps the pixels, and the last one leaves every anchor clear. -/
theorem canonicalisationKeepsPixels : Obligations.CanonicalisationKeepsPixels := by
  unfold Obligations.CanonicalisationKeepsPixels
  intro px c hcontract
  obtain ⟨hallowed, hlegal⟩ := (choiceContract_iff px c).mp hcontract
  have hsame := hlegal.canonicalise
  exact ⟨(choiceContract_iff _ _).mpr ⟨hsame.mode_eq ▸ hallowed, hsame.legal⟩, hlegal.anchorsClear_canonicalise,
    hsame.pixels_eq⟩

/-- Settles O25: the first `INIT.BC7` sets `BC7_READY`, and with `BC7_READY` set it keeps the state. -/
theorem initBc7Effect : Obligations.InitBc7Effect := by
  unfold Obligations.InitBc7Effect
  refine ⟨decodeOfEncode .initBc7 rfl, fun s l hrun => ⟨fun hready => ?_, fun hnot => ⟨?_, ?_⟩, ?_⟩⟩
  · rw [exec_initBc7 hrun, if_pos hready]
  · rw [exec_initBc7 hrun, if_neg (by simp [hnot])]
  · exact exec_initBc7 (l := l) hrun
  · refine ⟨_, exec_initBc7 hrun, ?_, fun l' _ => ?_⟩
    · split <;> rfl
    · rw [(statusWord_low_bits _ l').1]
      split
      · assumption
      · rfl

end Sys2Proof.Machine
end

section
/-! SUPPORT. The frame of every command (R330): a halted lane keeps the state, and the write of a word to `CMD` issues
it on its lane. -/

namespace Sys2Proof.Machine

variable {s : State} {l : Lane}

/-- Every command runs in the frame of R330. -/
theorem exec_eq_runCommand (i : Instr) (s : State) : ∃ body, exec i s = runCommand s body := by
  cases i <;> exact ⟨_, rfl⟩

/-- A halted lane ignores every command (spec R330, R381). -/
theorem exec_halted (hl : curLane s = some l) (hf : l.fault = true) (i : Instr) : exec i s = .next s := by
  obtain ⟨body, hbody⟩ := exec_eq_runCommand i s
  rw [hbody, runCommand_halted hl hf]

/-- A halted lane ignores a word that is no command, too (spec R330, R381). -/
theorem illegalCommand_halted (hl : curLane s = some l) (hf : l.fault = true) : illegalCommand s = .next s :=
  runCommand_halted hl hf _

/-- A word that decodes is issued as the command it decodes to (spec R330). -/
theorem issue_of_decode_ok {w : CmdWord} {i : Instr} (h : decode w = .ok i) (s : State) : issue w s = exec i s := by
  rw [issue, h]

/-- A word that does not decode is issued as an illegal command (spec R74, R75, R330). -/
theorem issue_of_decode_error {w : CmdWord} {r : DecodeReject} (h : decode w = .error r) (s : State) :
    issue w s = illegalCommand s := by
  rw [issue, h]

/-- A step that serves the host's write of a word to `CMD` issues the word on that lane (spec R76, R330). -/
theorem step_commandTxn {k : Nat} {w : CmdWord} {rest : List Txn} (hp : s.pending = commandTxn s.params k w :: rest)
    (hk : k < s.lanes.length) : step s = issue w { s with pending := rest, cur := k, response := .ack } := by
  have hloc := locate_busAddr s.params s.lanes.length k cmdOffset hk (by decide)
  have hword : (w.setWidth 64).setWidth 32 = w := by simp
  simp [step, takeInput, hp, commandTxn, serve, hloc, hk, hword]

end Sys2Proof.Machine
end

section
/-! SUPPORT. What each command does to the lane it runs on (the writes column of R71), and the registers every such
change keeps. -/

namespace Sys2Proof.Machine

variable {s t : State} {l l' : Lane} {i : Instr}

/-- The encoders of the 64-bit formats (spec R71, R78). -/
def halfEncoders : List Instr := [.encEtc1, .encEtc2Rgb, .encEtc2R11, .encBc1, .encBc4]

/-- The encoders of the 128-bit formats (spec R71, R78). -/
def blockEncoders : List Instr := [.encEtc2Rgba, .encEtc2Rg11, .encBc3, .encBc5, .encBc7]

/-- The decoders (spec R71, R75). -/
def tileDecoders : List Instr := [.decBc1, .decBc3, .decBc4, .decBc5, .decBc7]

/-- The commands other than `SETBITS` that write `BLK` (spec R71). -/
def blkWriters : List Instr := [.clrblk, .fixboEtc, .bswap64] ++ halfEncoders ++ blockEncoders

/-- The lanes a command can make of the running lane `l`, by the command: the writes column of R71, with the faults of
R341. -/
inductive LaneEffect (l : Lane) : Instr → Lane → Prop
  | kept {i : Instr} (hi : i ∈ [.nop, .initBc7] ∨ ∃ n, i = .chksize n) : LaneEffect l i l
  | faulted {i : Instr} (c : Cause) (hi : i = .encBc7 ∨ ∃ n, i ∈ [.setbits n, .getbits n, .chksize n]) :
      LaneEffect l i (laneFaulted l c)
  | clrblk : LaneEffect l .clrblk { l with blk := 0#128, bitpos := 0#8 }
  | setbits (n : Nat) : LaneEffect l (.setbits n) (laneSetbits l n)
  | getbits (n : Nat) : LaneEffect l (.getbits n) (laneGetbits l n)
  | fixboEtc : LaneEffect l .fixboEtc { l with blk := permuteLowBytes (fun k => if k < 4 then k else 11 - k) l.blk }
  | bswap64 : LaneEffect l .bswap64 { l with blk := permuteLowBytes (fun k => 7 - k) l.blk }
  | half {i : Instr} (h : Half) (hi : i ∈ halfEncoders) : LaneEffect l i (laneWithHalf l h)
  | block {i : Instr} (b : Block) (hi : i ∈ blockEncoders) : LaneEffect l i (laneWithBlock l b)
  | tile {i : Instr} (px : List Px) (bits : BitVec 8) (hi : i ∈ tileDecoders) : LaneEffect l i (laneWithTile l px bits)

/-- A command that replaces its lane does to the lane what the replacement says. -/
theorem LaneEffect.of_putLane (heffect : LaneEffect l i l') (h : Running s l)
    (hexec : exec i s = .next (putLane s l')) :
    ∃ t l', exec i s = .next t ∧ curLane t = some l' ∧ LaneEffect l i l' :=
  ⟨_, l', hexec, curLane_putLane h.1, heffect⟩

/-- `ENC.BC7` without the tables raises `BC7_UNINIT` (spec R299). -/
theorem exec_encBc7_uninit (h : Running s l) (hready : s.bc7Ready = false) :
    exec .encBc7 s = .next (raiseFault s l .bc7Uninit) := by
  refine (runCommand_running h _).trans ?_
  rw [if_neg (by simp [hready])]

/-- What a command does to the running lane, said of every command (spec R330, R71). -/
theorem exec_laneEffect (i : Instr) (h : Running s l) :
    ∃ t l', exec i s = .next t ∧ curLane t = some l' ∧ LaneEffect l i l' := by
  cases i with
  | nop => exact ⟨s, l, runCommand_running h _, h.1, .kept (by simp)⟩
  | clrblk => exact LaneEffect.clrblk.of_putLane h (exec_clrblk h)
  | setbits n =>
    by_cases hbad : n = 0 ∨ 64 < n ∨ 128 < l.bitpos.toNat + n ∨ 2 ^ n ≤ l.arg.toNat
    · exact (LaneEffect.faulted .bitfieldRange (by simp)).of_putLane h (exec_setbits_fault h hbad)
    · exact (LaneEffect.setbits n).of_putLane h (exec_setbits_write h hbad)
  | getbits n =>
    by_cases hbad : n = 0 ∨ 64 < n ∨ 128 < l.bitpos.toNat + n
    · exact (LaneEffect.faulted .bitfieldRange (by simp)).of_putLane h (exec_getbits_fault h hbad)
    · exact (LaneEffect.getbits n).of_putLane h (exec_getbits_read h hbad)
  | chksize n =>
    by_cases hn : l.bitpos.toNat = n
    · exact ⟨s, l, exec_chksize_match h hn, h.1, .kept (by simp)⟩
    · exact (LaneEffect.faulted .sizeMismatch (by simp)).of_putLane h (exec_chksize_mismatch h hn)
  | fixboEtc => exact LaneEffect.fixboEtc.of_putLane h (runCommand_running h _)
  | bswap64 => exact LaneEffect.bswap64.of_putLane h (runCommand_running h _)
  | initBc7 =>
    refine ⟨_, l, exec_initBc7 h, ?_, .kept (by simp)⟩
    split <;> exact h.1
  | encBc7 =>
    cases hready : s.bc7Ready with
    | true => exact (LaneEffect.block _ (by decide)).of_putLane h (exec_encBc7_ready h hready)
    | false => exact (LaneEffect.faulted .bc7Uninit (by simp)).of_putLane h (exec_encBc7_uninit h hready)
  | encEtc1 => exact (LaneEffect.half _ (by decide)).of_putLane h (runCommand_running h _)
  | encEtc2Rgb => exact (LaneEffect.half _ (by decide)).of_putLane h (runCommand_running h _)
  | encEtc2R11 => exact (LaneEffect.half _ (by decide)).of_putLane h (runCommand_running h _)
  | encBc1 => exact (LaneEffect.half _ (by decide)).of_putLane h (runCommand_running h _)
  | encBc4 => exact (LaneEffect.half _ (by decide)).of_putLane h (runCommand_running h _)
  | encEtc2Rgba => exact (LaneEffect.block _ (by decide)).of_putLane h (runCommand_running h _)
  | encEtc2Rg11 => exact (LaneEffect.block _ (by decide)).of_putLane h (runCommand_running h _)
  | encBc3 => exact (LaneEffect.block _ (by decide)).of_putLane h (runCommand_running h _)
  | encBc5 => exact (LaneEffect.block _ (by decide)).of_putLane h (runCommand_running h _)
  | decBc1 => exact (LaneEffect.tile _ _ (by decide)).of_putLane h (runCommand_running h _)
  | decBc3 => exact (LaneEffect.tile _ _ (by decide)).of_putLane h (runCommand_running h _)
  | decBc4 => exact (LaneEffect.tile _ _ (by decide)).of_putLane h (runCommand_running h _)
  | decBc5 => exact (LaneEffect.tile _ _ (by decide)).of_putLane h (runCommand_running h _)
  | decBc7 => exact (LaneEffect.tile _ _ (by decide)).of_putLane h (runCommand_running h _)

/-- The lane a command leaves is one its row of the opcode map allows (spec R330, R71). -/
theorem laneEffect_of_exec (h : Running s l) (hexec : exec i s = .next t) (hl' : curLane t = some l') :
    LaneEffect l i l' := by
  obtain ⟨t', m, hexec', hm, heffect⟩ := exec_laneEffect i h
  cases hexec'.symm.trans hexec
  cases hm.symm.trans hl'
  exact heffect

/-- No command changes `ARG`, `CTRL` or a weight (spec R71, R23, R26). -/
theorem LaneEffect.operands (h : LaneEffect l i l') : l'.arg = l.arg ∧ l'.ctrl = l.ctrl ∧ l'.w1 = l.w1 ∧
    l'.w5 = l.w5 ∧ l'.w6 = l.w6 ∧ l'.w7 = l.w7 := by
  cases h <;> simp

/-- Only `GETBITS` changes `RES` (spec R71, R24). -/
theorem LaneEffect.res (h : LaneEffect l i l') (hi : ∀ n, i ≠ .getbits n) : l'.res = l.res := by
  cases h with
  | getbits n => exact absurd rfl (hi n)
  | _ => simp

/-- Only decoders change `TILE` (spec R71). -/
theorem LaneEffect.tile_eq (h : LaneEffect l i l') (hi : i ∉ tileDecoders) : l'.tile = l.tile := by
  cases h with
  | tile px bits htile => exact absurd htile hi
  | _ => simp

/-- Only `CLRBLK`, `SETBITS`, `FIXBO.ETC`, `BSWAP64` and encoders change `BLK` (spec R71, R22). -/
theorem LaneEffect.blk (h : LaneEffect l i l') (hset : ∀ n, i ≠ .setbits n) (hi : i ∉ blkWriters) :
    l'.blk = l.blk := by
  cases h with
  | clrblk => exact absurd (by decide) hi
  | setbits n => exact absurd rfl (hset n)
  | fixboEtc => exact absurd (by decide) hi
  | bswap64 => exact absurd (by decide) hi
  | half _ hhalf => exact absurd (by simp [blkWriters, hhalf]) hi
  | block _ hblock => exact absurd (by simp [blkWriters, hblock]) hi
  | _ => simp

/-- Permuting the low bytes keeps `BLK[8..15]` (spec R95, R96). -/
@[simp] theorem highHalf_permuteLowBytes (perm : Nat → Nat) (b : Block) :
    highHalf (permuteLowBytes perm b) = highHalf b := highHalf_blockOf _ _

/-- The byte permutations and the encoders of 64-bit formats are not encoders of 128-bit formats (spec R71, R78). -/
theorem not_mem_blockEncoders : ∀ i ∈ [.fixboEtc, .bswap64] ++ halfEncoders, i ∉ blockEncoders := by decide

/-- The byte permutations and the encoders of 64-bit formats keep `BLK[8..15]` (spec R22, R95, R96, R220). -/
theorem LaneEffect.highHalf (h : LaneEffect l i l') (hi : i ∈ [.fixboEtc, .bswap64] ++ halfEncoders) :
    highHalf l'.blk = highHalf l.blk := by
  cases h with
  | clrblk => exact absurd hi (by decide)
  | setbits n => simp [halfEncoders] at hi
  | block _ hblock => exact absurd hblock (not_mem_blockEncoders i hi)
  | _ => simp

/-- `FIXBO.ETC` keeps `BLK[0..3]` (spec R95). -/
theorem LaneEffect.low_bytes (h : LaneEffect l .fixboEtc l') {k : Nat} (hk : k < 4) :
    byteOf l'.blk k = byteOf l.blk k := by
  cases h with
  | fixboEtc => rw [byteOf_permuteLowBytes (by decide) _ (by omega), if_pos (by omega), if_pos hk]
  | half _ hhalf => exact absurd hhalf (by decide)
  | block _ hblock => exact absurd hblock (by decide)
  | _ => simp

/-- `NOP`, `FIXBO.ETC`, `BSWAP64`, `INIT.BC7` and `CHKSIZE` are neither encoders nor decoders (spec R71). -/
theorem not_mem_codecs (hi : i ∈ [.nop, .fixboEtc, .bswap64, .initBc7] ∨ ∃ n, i = .chksize n) :
    i ∉ halfEncoders ∧ i ∉ blockEncoders ∧ i ∉ tileDecoders := by
  rcases hi with hi | ⟨n, rfl⟩
  · revert i
    decide
  · simp [halfEncoders, blockEncoders, tileDecoders]

/-- `NOP`, `FIXBO.ETC`, `BSWAP64`, `INIT.BC7` and `CHKSIZE` keep `BITPOS` (spec R71, R25). -/
theorem LaneEffect.bitpos (h : LaneEffect l i l')
    (hi : i ∈ [.nop, .fixboEtc, .bswap64, .initBc7] ∨ ∃ n, i = .chksize n) : l'.bitpos = l.bitpos := by
  obtain ⟨hnotHalf, hnotBlock, hnotTile⟩ := not_mem_codecs hi
  cases h with
  | clrblk => simp at hi
  | setbits n => simp at hi
  | getbits n => simp at hi
  | half _ hhalf => exact absurd hhalf hnotHalf
  | block _ hblock => exact absurd hblock hnotBlock
  | tile _ _ htile => exact absurd htile hnotTile
  | _ => simp

/-- Only `SETBITS`, `GETBITS`, `CHKSIZE` and `ENC.BC7` change `FAULT` or `CAUSE` (spec R71, R341). -/
theorem LaneEffect.flags (h : LaneEffect l i l') (hi : ∀ n, i ≠ .setbits n ∧ i ≠ .getbits n ∧ i ≠ .chksize n)
    (henc : i ≠ .encBc7) : l'.fault = l.fault ∧ l'.cause = l.cause := by
  cases h with
  | faulted c hfault =>
    obtain ⟨n, hn⟩ := hfault.resolve_left henc
    simp [hi n] at hn
  | _ => simp

end Sys2Proof.Machine
end

section
/-! The obligations of the control family (48_control_ops.md). -/

namespace Sys2Proof.Machine

/-- Settles O17: register by register, from what each command can do to the lane it runs on. -/
theorem commandsWriteOnlyListedRegisters : Obligations.CommandsWriteOnlyListedRegisters := by
  unfold Obligations.CommandsWriteOnlyListedRegisters
  intro i s t l l' hrun hexec hl'
  have heffect := laneEffect_of_exec hrun hexec hl'
  refine ⟨heffect.operands, heffect.res, heffect.tile_eq, fun hset hi => ?_, heffect.highHalf, ?_, heffect.bitpos,
    heffect.flags⟩
  · have hlisted : ∀ j ∈ blkWriters, j ∈ [.clrblk, .fixboEtc, .bswap64, .encEtc1, .encEtc2Rgb, .encEtc2Rgba,
        .encEtc2R11, .encEtc2Rg11, .encBc1, .encBc3, .encBc4, .encBc5, .encBc7] := by decide
    exact heffect.blk hset fun hmem => hi (hlisted i hmem)
  · rintro rfl k hk
    exact heffect.low_bytes hk

/-- Settles O3: the write is served by issuing its word on lane `k`. -/
theorem stepRunsDecodedCommand : Obligations.StepRunsDecodedCommand := by
  unfold Obligations.StepRunsDecodedCommand
  intro s k w rest hp hk
  rw [step_commandTxn hp hk]
  exact ⟨fun i hi => issue_of_decode_ok hi _, fun r hr => issue_of_decode_error hr _⟩

/-- Settles O8: every command, and the illegal one, runs in the frame that a halted lane ignores. -/
theorem haltedLaneIgnoresCommands : Obligations.HaltedLaneIgnoresCommands := by
  unfold Obligations.HaltedLaneIgnoresCommands
  intro s l hl hf
  refine ⟨exec_halted hl hf, fun w => ?_⟩
  cases hdecode : decode w with
  | ok i => rw [issue_of_decode_ok hdecode, exec_halted hl hf]
  | error r => rw [issue_of_decode_error hdecode, illegalCommand_halted hl hf]

/-- Settles O18: `NOP` has no body of its own, and a halted lane ignores it. -/
theorem nopChangesNothing : Obligations.NopChangesNothing := by
  unfold Obligations.NopChangesNothing
  refine ⟨decodeOfEncode .nop rfl, fun s l hl => ?_⟩
  cases hf : l.fault with
  | true => exact exec_halted hl hf .nop
  | false => exact runCommand_running ⟨hl, hf⟩ _

end Sys2Proof.Machine
end

section
/-! SUPPORT. Which fault a word written to `CMD` raises on a running lane (R341), and what issuing a word does by it:
the fault with its cause code and nothing else (R344), or a lane that runs on with its `CAUSE` (R330). -/

namespace Sys2Proof.Machine

variable {s t : State} {l l' : Lane} {w : CmdWord} {c c' : Cause}

/-- The condition under which a word raises a cause on the running lane `l` (spec R341). -/
def WordRaises (s : State) (l : Lane) (w : CmdWord) : Cause → Prop
  | .bc7Uninit => decode w = .ok .encBc7 ∧ s.bc7Ready = false
  | .sizeMismatch => ∃ n, decode w = .ok (.chksize n) ∧ l.bitpos.toNat ≠ n
  | .illegalCmd => ∀ i, decode w ≠ .ok i
  | .bitfieldRange => ∃ n,
      (decode w = .ok (.setbits n) ∧ (n = 0 ∨ 64 < n ∨ 128 < l.bitpos.toNat + n ∨ 2 ^ n ≤ l.arg.toNat)) ∨
      (decode w = .ok (.getbits n) ∧ (n = 0 ∨ 64 < n ∨ 128 < l.bitpos.toNat + n))

/-- Each cause has a code of its own (spec R341). -/
theorem causeCode_inj : causeCode c = causeCode c' ↔ c = c' := by
  cases c <;> cases c' <;> decide

/-- A word that is no command raises `ILLEGAL_CMD` on a running lane (spec R74, R75). -/
theorem illegalCommand_running (h : Running s l) : illegalCommand s = .next (raiseFault s l .illegalCmd) :=
  runCommand_running h _

/-- A word whose condition for a cause holds raises that fault (spec R341, R344). -/
theorem issue_of_wordRaises (h : Running s l) (hraises : WordRaises s l w c) :
    issue w s = .next (raiseFault s l c) := by
  cases c with
  | bc7Uninit =>
    obtain ⟨hdecode, hready⟩ := hraises
    rw [issue_of_decode_ok hdecode, exec_encBc7_uninit h hready]
  | sizeMismatch =>
    obtain ⟨n, hdecode, hn⟩ := hraises
    rw [issue_of_decode_ok hdecode, exec_chksize_mismatch h hn]
  | illegalCmd =>
    cases hdecode : decode w with
    | ok i => exact absurd hdecode (hraises i)
    | error r => rw [issue_of_decode_error hdecode, illegalCommand_running h]
  | bitfieldRange =>
    obtain ⟨n, ⟨hdecode, hbad⟩ | ⟨hdecode, hbad⟩⟩ := hraises
    · rw [issue_of_decode_ok hdecode, exec_setbits_fault h hbad]
    · rw [issue_of_decode_ok hdecode, exec_getbits_fault h hbad]

/-- A command that replaces its lane by one with the same `FAULT` and `CAUSE` leaves a running lane with its `CAUSE`. -/
theorem running_of_exec_putLane {i : Instr} (h : Running s l) (hexec : exec i s = .next (putLane s l'))
    (hfault : l'.fault = l.fault) (hcause : l'.cause = l.cause) :
    ∃ t l', exec i s = .next t ∧ Running t l' ∧ l'.cause = l.cause :=
  ⟨_, l', hexec, running_putLane h l' (hfault.trans h.2), hcause⟩

/-- A command other than the four that check something leaves a running lane with its `CAUSE` (spec R341). -/
theorem running_of_exec_unchecked {i : Instr} (h : Running s l)
    (hi : ∀ n, i ≠ .setbits n ∧ i ≠ .getbits n ∧ i ≠ .chksize n) (henc : i ≠ .encBc7) :
    ∃ t l', exec i s = .next t ∧ Running t l' ∧ l'.cause = l.cause := by
  obtain ⟨t, l', hexec, hl', heffect⟩ := exec_laneEffect i h
  obtain ⟨hfault, hcause⟩ := heffect.flags hi henc
  exact ⟨t, l', hexec, ⟨hl', hfault.trans h.2⟩, hcause⟩

/-- A word for which no cause's condition holds leaves the lane running, with its `CAUSE` (spec R341, R330). -/
theorem issue_of_not_wordRaises (h : Running s l) (hquiet : ∀ c, ¬WordRaises s l w c) :
    ∃ t l', issue w s = .next t ∧ Running t l' ∧ l'.cause = l.cause := by
  cases hdecode : decode w with
  | error r => exact absurd (fun i hi => by cases hdecode.symm.trans hi) (hquiet .illegalCmd)
  | ok i =>
    rw [issue_of_decode_ok hdecode]
    cases i with
    | setbits n =>
      exact running_of_exec_putLane h
        (exec_setbits_write h fun hbad => hquiet .bitfieldRange ⟨n, .inl ⟨hdecode, hbad⟩⟩)
        (laneSetbits_fault ..) (laneSetbits_cause ..)
    | getbits n =>
      exact running_of_exec_putLane h
        (exec_getbits_read h fun hbad => hquiet .bitfieldRange ⟨n, .inr ⟨hdecode, hbad⟩⟩)
        (laneGetbits_fault ..) (laneGetbits_cause ..)
    | chksize n =>
      exact ⟨s, l, exec_chksize_match h (not_not.mp fun hn => hquiet .sizeMismatch ⟨n, hdecode, hn⟩), h, rfl⟩
    | encBc7 =>
      have hready : s.bc7Ready = true := by
        simpa [WordRaises, hdecode] using hquiet .bc7Uninit
      exact running_of_exec_putLane h (exec_encBc7_ready h hready) (laneWithBlock_fault ..) (laneWithBlock_cause ..)
    | _ => exact running_of_exec_unchecked h (by simp) (by simp)

/-- What issuing a word on a running lane does: the fault of the cause whose condition holds, or, where none holds, a
state in which the lane is still running with its `CAUSE` (spec R330, R341, R344). -/
theorem issue_running_cases (w : CmdWord) (h : Running s l) :
    (∃ c, WordRaises s l w c ∧ issue w s = .next (raiseFault s l c)) ∨
    ((∀ c, ¬WordRaises s l w c) ∧ ∃ t l', issue w s = .next t ∧ Running t l' ∧ l'.cause = l.cause) := by
  by_cases hraises : ∃ c, WordRaises s l w c
  · obtain ⟨c, hc⟩ := hraises
    exact .inl ⟨c, hc, issue_of_wordRaises h hc⟩
  · have hquiet := not_exists.mp hraises
    exact .inr ⟨hquiet, issue_of_not_wordRaises h hquiet⟩

/-- The lane that raises a fault holds it afterwards (spec R344). -/
theorem curLane_raiseFault (h : Running s l) (c : Cause) : curLane (raiseFault s l c) = some (laneFaulted l c) :=
  curLane_putLane h.1

/-- At most one cause's condition holds of a word (spec R341, R342). -/
theorem WordRaises.unique (h : Running s l) (hc : WordRaises s l w c) (hc' : WordRaises s l w c') : c = c' := by
  have hissue : Host.Outcome.next (raiseFault s l c) = .next (raiseFault s l c') :=
    (issue_of_wordRaises h hc).symm.trans (issue_of_wordRaises h hc')
  have hstate := Host.Outcome.next.inj hissue
  have hlane : laneFaulted l c = laneFaulted l c' :=
    Option.some.inj (((curLane_raiseFault h c).symm.trans (congrArg curLane hstate)).trans (curLane_raiseFault h c'))
  exact causeCode_inj.mp (congrArg Lane.cause hlane)

/-- After a word is issued on a running lane, `FAULT` and the code of a cause stand there exactly if the cause's
condition held (spec R341). -/
theorem faulted_iff_wordRaises (h : Running s l) (hissue : issue w s = .next t) (hl' : curLane t = some l')
    (c : Cause) : (l'.fault = true ∧ l'.cause = causeCode c) ↔ WordRaises s l w c := by
  rcases issue_running_cases w h with ⟨d, hd, hnext⟩ | ⟨hquiet, t', m, hnext, ⟨hm, hf⟩, -⟩
  · cases hnext.symm.trans hissue
    cases (curLane_raiseFault h d).symm.trans hl'
    simp only [laneFaulted_fault, laneFaulted_cause, causeCode_inj, true_and]
    exact ⟨fun hdc => hdc ▸ hd, fun hc => hd.unique h hc⟩
  · cases hnext.symm.trans hissue
    cases hm.symm.trans hl'
    simp [hf, hquiet c]

/-- A lane that a word leaves halted was halted by `raiseFault`, which writes `FAULT` and `CAUSE` alone (spec R344). -/
theorem issue_halting (h : Running s l) (hissue : issue w s = .next t) (hl' : curLane t = some l')
    (hf : l'.fault = true) : ∃ c, t = raiseFault s l c ∧ l'.cause = causeCode c := by
  rcases issue_running_cases w h with ⟨c, -, hnext⟩ | ⟨-, t', m, hnext, ⟨hm, hrun⟩, -⟩
  · cases hnext.symm.trans hissue
    cases (curLane_raiseFault h c).symm.trans hl'
    exact ⟨c, rfl, rfl⟩
  · cases hnext.symm.trans hissue
    cases hm.symm.trans hl'
    cases hrun.symm.trans hf

end Sys2Proof.Machine
end

section
/-! SUPPORT. Halted lanes under any input but reset (R345), the steps of the reset input (R370) and of a host's write
by its address (R50, R55), and that a word is always issued to a next state (R340). -/

namespace Sys2Proof.Machine

variable {s t : State} {l : Lane} {w : CmdWord} {k : Nat}

/-- No word written to any `CMD` changes a halted lane (spec R330, R345, R38). -/
theorem issue_keeps_halted (hissue : issue w s = .next t) (hl : s.lanes[k]? = some l) (hf : l.fault = true) :
    t.lanes[k]? = some l := by
  by_cases hk : k = s.cur
  · subst hk
    obtain ⟨-, hword⟩ := haltedLaneIgnoresCommands s l hl hf
    cases (hword w).symm.trans hissue
    exact hl
  · rcases issue_next hissue with ⟨i, hexec⟩ | hill
    · obtain ⟨-, hother, -⟩ := commandsKeepOtherLanes i s t hexec
      exact (hother k hk).trans hl
    · rcases illegalCommand_next hill with rfl | ⟨m, -, rfl⟩
      · exact hl
      · exact (putLane_other s _ k hk).trans hl

/-- A host write to a register keeps `FAULT` and `CAUSE`: `STATUS` is read-only (spec R27, R55). -/
theorem regWrite_flags (l : Lane) (reg : WinReg) (j size : Nat) (v : BitVec 64) :
    (regWrite l reg j size v).fault = l.fault ∧ (regWrite l reg j size v).cause = l.cause := by
  cases reg <;> simp

/-- A host write other than a command keeps `FAULT` and `CAUSE` of every lane (spec R27, R38, R55). -/
theorem serveWrite_keeps_flags {k' off size : Nat} {v : BitVec 64} {m : Lane} (hm : s.lanes[k']? = some m)
    (hl : s.lanes[k]? = some l) :
    ∃ l', (serveWrite s k' m off size v).lanes[k]? = some l' ∧ l'.fault = l.fault ∧ l'.cause = l.cause := by
  cases hrow : accessRow off size with
  | none => exact ⟨l, by rw [serveWrite_illegal hrow]; exact hl, rfl, rfl⟩
  | some row =>
    rw [serveWrite_row hrow]
    by_cases hk : k' = k
    · subst hk
      cases hm.symm.trans hl
      obtain ⟨hk', -⟩ := List.getElem?_eq_some_iff.mp hl
      exact ⟨_, List.getElem?_set_self hk', regWrite_flags ..⟩
    · exact ⟨l, (List.getElem?_set_ne hk).trans hl, rfl, rfl⟩

/-- Issuing a word on a lane that exists gives a next state, whatever the word (spec R330, R340). -/
theorem issue_exists_next (w : CmdWord) (hl : curLane s = some l) : ∃ t, issue w s = .next t := by
  cases hf : l.fault with
  | true =>
    obtain ⟨-, hword⟩ := haltedLaneIgnoresCommands s l hl hf
    exact ⟨s, hword w⟩
  | false =>
    rcases issue_running_cases w ⟨hl, hf⟩ with ⟨c, -, hnext⟩ | ⟨-, t, -, hnext, -⟩
    · exact ⟨_, hnext⟩
    · exact ⟨t, hnext⟩

/-- The step that serves the reset input (spec R370). -/
theorem step_reset {rest : List Txn} (hp : s.pending = .reset :: rest) :
    step s = .next (resetDevice { s with pending := rest }) := by
  simp [step, takeInput, hp, serve]

/-- The step that serves a write at an address of a lane's window: the word is issued at `CMD`, and any other write is
served on the lane (spec R50, R55, R330). -/
theorem step_write {addr size off : Nat} {v : BitVec 64} {rest : List Txn} (hp : s.pending = .write addr size v :: rest)
    (hloc : locate s.params s.lanes.length addr = some (k, off)) (hl : s.lanes[k]? = some l) :
    step s = if off = cmdOffset ∧ size = 4 then
        issue (v.setWidth 32) { s with pending := rest, cur := k, response := .ack }
      else .next (serveWrite { s with pending := rest } k l off size v) := by
  simp only [step, takeInput, hp, serve, hloc, hl]
  split_ifs <;> rfl

/-- An address in some lane's window is a window offset of a lane that exists (spec R38, R50). -/
theorem exists_lane_of_locate_isSome {addr : Nat} (h : (locate s.params s.lanes.length addr).isSome) :
    ∃ k off l, locate s.params s.lanes.length addr = some (k, off) ∧ s.lanes[k]? = some l := by
  obtain ⟨⟨k, off⟩, hloc⟩ := Option.isSome_iff_exists.mp h
  obtain ⟨hk, -, -⟩ := locate_some hloc
  exact ⟨k, off, _, hloc, List.getElem?_eq_getElem hk⟩

end Sys2Proof.Machine
end

section
/-! SUPPORT. The encoders and decoders by format (R71, R72): each leaves the format's block size in `BITPOS`
(R78, R97). -/

namespace Sys2Proof.Machine

variable {s : State} {l : Lane}

/-- `ENC.fmt` with the tables ready writes `BLK` and sets `BITPOS` to the format's block size (spec R78, R220). -/
theorem exec_encInstr (f : Fmt) (h : Running s l) (hready : s.bc7Ready = true) : ∃ blk, exec (encInstr f) s =
    .next (putLane s { l with blk := blk, bitpos := BitVec.ofNat 8 (blockBits f) }) := by
  obtain ⟨hetc1, hrgb, hr11, hbc1, hbc4⟩ := encodersOf64BitFormats s l h
  obtain ⟨hrgba, hrg11, hbc3, hbc5⟩ := encodersOf128BitFormats s l h
  cases f with
  | etc1 => exact ⟨_, hetc1⟩
  | etc2Rgb => exact ⟨_, hrgb⟩
  | etc2Rgba => exact ⟨_, hrgba⟩
  | etc2R11 => exact ⟨_, hr11⟩
  | etc2Rg11 => exact ⟨_, hrg11⟩
  | bc1 => exact ⟨_, hbc1⟩
  | bc3 => exact ⟨_, hbc3⟩
  | bc4 => exact ⟨_, hbc4⟩
  | bc5 => exact ⟨_, hbc5⟩
  | bc7 => exact ⟨_, exec_encBc7_ready h hready⟩

/-- `DEC.fmt` writes `TILE` and sets `BITPOS` to the format's block size (spec R97, R200). -/
theorem exec_decInstr {f : Fmt} {i : Instr} (hi : decInstr f = some i) (h : Running s l) : ∃ tile, exec i s =
    .next (putLane s { l with tile := tile, bitpos := BitVec.ofNat 8 (blockBits f) }) := by
  cases f with
  | bc1 => cases hi; exact ⟨_, runCommand_running h _⟩
  | bc3 => cases hi; exact ⟨_, runCommand_running h _⟩
  | bc4 => cases hi; exact ⟨_, runCommand_running h _⟩
  | bc5 => cases hi; exact ⟨_, runCommand_running h _⟩
  | bc7 => cases hi; exact ⟨_, exec_decBc7 h⟩
  | _ => cases hi

/-- A block size fits `BITPOS` (spec R2, R25). -/
theorem toNat_bitpos_blockBits (f : Fmt) : (BitVec.ofNat 8 (blockBits f)).toNat = blockBits f := by
  cases f <;> rfl

/-- Where a command leaves its lane running with a count in `BITPOS`, `CHKSIZE` of that count passes (spec R94,
R376). -/
theorem chksize_passes_of_putLane {i : Instr} {l' : Lane} {n : Nat} (h : Running s l)
    (hexec : exec i s = .next (putLane s l')) (hf : l'.fault = false) (hn : l'.bitpos.toNat = n) :
    ∃ t l', exec i s = .next t ∧ Running t l' ∧ l'.bitpos.toNat = n ∧ exec (.chksize n) t = .next t :=
  have hrun := running_putLane h l' hf
  ⟨_, l', hexec, hrun, hn, exec_chksize_match hrun hn⟩

end Sys2Proof.Machine
end

section
/-! The obligations of the exception family (60_exceptions.md) and of the reset and hazard family
(70_reset_and_hazards.md). -/

namespace Sys2Proof.Machine

/-- Settles O9: each cause's code stands after a word exactly under the cause's condition, and a word without one
leaves the lane running. -/
theorem faultCauses : Obligations.FaultCauses := by
  unfold Obligations.FaultCauses
  intro w s l h
  have hnext : ∃ t l', issue w s = .next t ∧ curLane t = some l' ∧ (l'.fault = false → l'.cause = l.cause) := by
    rcases issue_running_cases w h with ⟨c, -, hissue⟩ | ⟨-, t, l', hissue, ⟨hl', -⟩, hcause⟩
    · exact ⟨_, _, hissue, curLane_raiseFault h c, fun hf => by cases hf⟩
    · exact ⟨t, l', hissue, hl', fun _ => hcause⟩
  obtain ⟨t, l', hissue, hl', hkept⟩ := hnext
  have hiff := faulted_iff_wordRaises h hissue hl'
  refine ⟨t, l', hissue, hl', hiff .bc7Uninit, hiff .sizeMismatch, hiff .illegalCmd, hiff .bitfieldRange,
    fun hf => ?_, hkept⟩
  obtain ⟨c, rfl, hcause⟩ := issue_halting h hissue hl' hf
  obtain ⟨hlow, hhigh⟩ := causeCode_bounds c
  rw [hcause]
  exact ⟨hlow, hhigh, rfl⟩

/-- Settles O10: only `raiseFault` halts the lane. -/
theorem faultChangesOnlyFaultAndCause : Obligations.FaultChangesOnlyFaultAndCause := by
  unfold Obligations.FaultChangesOnlyFaultAndCause
  intro w s t l l' h hissue hl' hf
  obtain ⟨c, rfl, hcause⟩ := issue_halting h hissue hl' hf
  rw [hcause]
  rfl

/-- Settles O11: reads write no register, `STATUS` ignores writes, and commands do not run on a halted lane. -/
theorem faultStaysUntilReset : Obligations.FaultStaysUntilReset := by
  unfold Obligations.FaultStaysUntilReset
  intro s t k l hl hf hreset h
  rcases step_cases h with ⟨-, rfl⟩ | ⟨rest, ⟨hp, -⟩ | ⟨_, size, k', off, m, -, -, -, rfl⟩ |
    ⟨_, size, v, k', off, m, -, -, hm, ⟨-, rfl⟩ | ⟨-, -, hissue⟩⟩⟩
  · exact ⟨l, hl, hf, rfl⟩
  · exact absurd (by simp [hp]) hreset
  · obtain ⟨r, hr⟩ := serveRead_frame { s with pending := rest } k' m off size
    rw [hr]
    exact ⟨l, hl, hf, rfl⟩
  · obtain ⟨l', hl', hfault, hcause⟩ :=
      serveWrite_keeps_flags (s := { s with pending := rest }) (off := off) (size := size) (v := v) hm hl
    exact ⟨l', hl', hfault.trans hf, hcause⟩
  · exact ⟨l, issue_keeps_halted hissue hl hf, hf, rfl⟩

/-- Settles O15: an addressed access finds its lane, and every word written to `CMD` is issued to a next state. -/
theorem addressedStepsNeverStop : Obligations.AddressedStepsNeverStop := by
  unfold Obligations.AddressedStepsNeverStop
  intro s hsafe
  cases hp : s.pending with
  | nil => exact ⟨s, by simp [step, takeInput, hp]⟩
  | cons x rest =>
    have haddr := hsafe x rest hp
    cases x with
    | reset => exact ⟨_, step_reset hp⟩
    | read addr size =>
      obtain ⟨k, off, l, hloc, hl⟩ := exists_lane_of_locate_isSome haddr
      obtain ⟨-, hoff, rfl⟩ := locate_some hloc
      exact ⟨_, step_hostRead hp hl hoff⟩
    | write addr size v =>
      obtain ⟨k, off, l, hloc, hl⟩ := exists_lane_of_locate_isSome haddr
      rw [step_write hp hloc hl]
      split
      · exact issue_exists_next _ (s := { s with pending := rest, cur := k, response := .ack }) hl
      · exact ⟨_, rfl⟩

/-- Settles O27: the precondition of `ENC.BC7` and the comparison of `CHKSIZE` come before anything is written. -/
theorem uninitialisedBc7Faults : Obligations.UninitialisedBc7Faults := by
  unfold Obligations.UninitialisedBc7Faults
  intro s l h
  exact ⟨exec_encBc7_uninit h, fun n hn => exec_chksize_mismatch h hn⟩

/-- Settles O37: encoders and decoders leave the format's block size in `BITPOS`, which `CHKSIZE` compares. -/
theorem chksizePassesAfterCodecCommand : Obligations.ChksizePassesAfterCodecCommand := by
  unfold Obligations.ChksizePassesAfterCodecCommand
  intro f s l h
  refine ⟨fun hready => ?_, fun i hi => ?_⟩
  · obtain ⟨blk, hexec⟩ := exec_encInstr f h hready
    exact chksize_passes_of_putLane h hexec h.2 (toNat_bitpos_blockBits f)
  · obtain ⟨tile, hexec⟩ := exec_decInstr hi h
    exact chksize_passes_of_putLane h hexec h.2 (toNat_bitpos_blockBits f)

/-- Settles O2: the step serves the reset input with `resetDevice`, whose lanes are all reset lanes. -/
theorem resetInputRestartsDevice : Obligations.ResetInputRestartsDevice := by
  unfold Obligations.ResetInputRestartsDevice
  intro s rest hp
  exact ⟨_, step_reset hp, rfl, List.length_replicate, fun l hl => List.eq_of_mem_replicate hl, rfl, rfl⟩

end Sys2Proof.Machine
end
